-- ==== Sys2Proof/Word.lean ====
section
/-! DEFINITION. The two word sizes of the block: the byte of a stream and the 32-bit register (spec/00_scope.md R6, R7). -/

namespace Sys2Proof

/-- A byte is 8 bits (R7). -/
abbrev Byte := BitVec 8

/-- Every register, and every command word, is 32 bits wide (R6, R17, R56). -/
abbrev Word := BitVec 32

end Sys2Proof
end

