-- ==== Sys2Proof/Config.lean ====
section
/-! DEFINITION. What the platform or the implementation fixes and the spec leaves OPEN (spec/93_implementation_defined.md P1, P2, P4, U1).
Each open value is a constant without a body: nothing in Lean can evaluate it, so a claim holds whatever it is. -/

namespace Sys2Proof

/-- A bus response (20_memory.md R45, R46): `OKAY` or `ERROR`. -/
inductive Resp where
  | okay
  | error
  deriving DecidableEq, Repr, Inhabited

/-- The two line buffers of 10_state.md R32. -/
inductive LineBuf where
  | prev
  | cur
  deriving DecidableEq, Repr

/-- The open number behind `Config.lineMax`. -/
opaque Config.lineMaxFree : Nat

/-- `LINE_MAX`, OPEN with `1 <= LINE_MAX <= 2^28` (R6, D20, P1): every value of that range, and no other, is possible.
Assumption log 3. -/
def Config.lineMax : Nat := Config.lineMaxFree % 2 ^ 28 + 1

/-- The open number behind `Config.base`. -/
opaque Config.baseFree : Nat

/-- `BASE`, OPEN: any multiple of 4 (R41, D4, P2). Assumption log 4. -/
def Config.base : Nat := 4 * Config.baseFree

/-- The byte at index `i` of line buffer `b` that nothing has written since reset number `resets`: unspecified, "any value"
(R32, R37, U1). Assumption log 5. -/
opaque Config.unwrittenByte (resets : Nat) (b : LineBuf) (i : Nat) : Byte

/-- The data the interconnect returns to the `k`-th access of the run if the block is in reset then (R140, P4: the platform's).
Assumption log 7. -/
opaque Config.inResetData (k : Nat) : Word

/-- The response of the interconnect to that access (R140, P4). Assumption log 7. -/
opaque Config.inResetResp (k : Nat) : Resp

end Sys2Proof
end

