-- ==== Sys2Proof/Syntax.lean ====
section
/-! DEFINITION. The commands of the block, one constructor per row of spec/opcode_table.json (30_encoding.md R64), in the table's order. -/

namespace Sys2Proof

/-- The direction of a scanline session (R11, R62): decode (`DIR = 0`, un-filter) or encode (`DIR = 1`, filter). -/
inductive Direction where
  | decode
  | encode
  deriving DecidableEq, Repr

/-- A command with its operands as the command word carries them (R57 to R63). The operands a command takes from `ARG` are
no part of it. A byte count `n` is the count itself, 1 to 4 (the field is `N1 = n - 1`, R61); `Instr.wellFormed` checks the range.
Assumption log 12. -/
inductive Instr where
  /-- `NOP` (R71). -/
  | nop
  /-- `CLRERR` (R72). -/
  | clrerr
  /-- `SRESET` (R73). -/
  | sreset
  /-- `CRC.INIT` (R85). -/
  | crcInit
  /-- `CRC.BYTE` (R86): the byte to add. -/
  | crcByte (v : Byte)
  /-- `CRC.WORD` (R87): how many bytes of `ARG` to add. -/
  | crcWord (n : Nat)
  /-- `CRC.LOAD` (R88). -/
  | crcLoad
  /-- `CRC.CHK` (R89). -/
  | crcChk
  /-- `CRC.TAB` (R90): the table index. -/
  | crcTab (idx : Byte)
  /-- `SL.BEGIN` (R105): colour type, bit depth, direction (operands in the order of R68). -/
  | slBegin (ct bd : Byte) (dir : Direction)
  /-- `SL.PUSH` (R108): the stream byte. -/
  | slPush (v : Byte)
  /-- `SL.PUSHW` (R115): how many bytes of `ARG` to push. -/
  | slPushw (n : Nat)
  /-- `SL.READW` (R119): how many bytes to read at index `ARG`. -/
  | slReadw (n : Nat)
  /-- `SL.END` (R120). -/
  | slEnd
  /-- `PAETH` (R96): the three neighbours. -/
  | paeth (a b c : Byte)
  /-- `UNFILT` (R97): the filter-type byte, any value (R66). -/
  | unfilt (ft : Byte)
  deriving DecidableEq, Repr

end Sys2Proof
end

