-- ==== Sys2Proof/Machine/State.lean ====
section
/-! DEFINITION. The state of the block (spec/10_state.md R39), what reaches its port (20_memory.md R45, R46; 70_reset_and_hazards.md R140),
the reasons a step can stop, and the state after reset (10_state.md R37). -/

namespace Sys2Proof.Machine

/-- The written bytes of a line buffer: (index, byte) pairs, indexes strictly rising (`Memory.wf`). An index that is not listed
holds a byte nothing has written since the last reset. -/
abbrev Memory := List Host.Cell

/-- `STATUS.BPP` (R21, R34 item 3): 0 before the first session, 3 for RGB, 4 for RGBA. -/
inductive Bpp where
  | unset
  | rgb
  | rgba
  deriving DecidableEq, Repr

/-- The five filter types (42_predictor.md R92). -/
inductive FilterType where
  | none
  | sub
  | up
  | average
  | paeth
  deriving DecidableEq, Repr

/-- The error codes of 60_exceptions.md R127. -/
inductive ErrCode where
  | none
  | filter
  | unsupported
  | illegal
  | state
  | width
  | index
  | partialRow
  deriving DecidableEq, Repr

/-- The fields of `STATUS` (R21). The reserved bits have no storage: they read 0 (U3). Assumption log 19. -/
structure Status where
  err : Bool
  crcMatch : Bool
  slActive : Bool
  dir : Direction
  hasRow : Bool
  bpp : Bpp
  ftype : FilterType
  deriving DecidableEq, Repr

/-- The fields of `ERRINFO` (R22). -/
structure ErrInfo where
  code : ErrCode
  d0 : Byte
  d1 : Byte
  opc : Byte
  deriving DecidableEq, Repr

/-- What can reach the block: a bus read or write of `width` bits at an offset of the window (R45, R46), or a change of its
reset input (R140). The data of a write is its 32-bit value; an access of another width is refused whatever it carries (R47).
Assumption log 14. -/
inductive BusEvent where
  | read (width : Nat) (off : BitVec 8)
  | write (width : Nat) (off : BitVec 8) (data : Word)
  | resetLine (asserted : Bool)
  deriving DecidableEq, Repr

/-- The answer to an access (R45, R46): a read returns data and a response, a write a response. -/
inductive Response where
  | readDone (data : Word) (resp : Resp)
  | writeDone (resp : Resp)
  deriving DecidableEq, Repr

/-- The state (R39). The first field is the parameter `LINE_MAX` that `CAP` reads (R19), the last three are the model's own. -/
structure State where
  /-- `LINE_MAX`, a parameter: no step changes it (R19, P1; assumption log 3). -/
  lineMax : Nat
  /-- The block's reset input is asserted (R140). -/
  inReset : Bool
  /-- `ARG` (R24). -/
  arg : Word
  /-- `RESULT` (R25). -/
  result : Word
  /-- `STATUS` (R21). -/
  status : Status
  /-- `ERRINFO` (R22). -/
  errInfo : ErrInfo
  /-- `ERRROW` (R23). -/
  errRow : Word
  /-- `CRC_STATE` (R26). -/
  crcState : Word
  /-- `SL_WIDTH` (R28). -/
  slWidth : Word
  /-- `SL_ROW` (R29). -/
  slRow : Word
  /-- `SL_COL` (R30). -/
  slCol : Word
  /-- The line buffer `PREV` (R32). -/
  prev : Memory
  /-- The line buffer `CUR` (R32). -/
  cur : Memory
  /-- How many resets there have been: the argument of `Config.unwrittenByte` (assumption log 5). -/
  resets : Nat
  /-- What is still to reach the port, in order of arrival (R53; assumption log 1). -/
  inbox : List BusEvent
  /-- The answers given, newest first (assumption log 8). -/
  responses : List Response
  deriving DecidableEq, Repr

/-- The reasons the machine stops. -/
inductive Fault where
  /-- An access past the end of a line buffer, at an index of `4 * LINE_MAX` or above, where R32 has no byte. Raised by a sample
  push and by `SL.READW`, and only in a state that breaks the invariant of R34 (no run reaches one). Safe: the model stops where
  the hardware has nothing to say. Assumption log 6. -/
  | outsideLineBuffer
  deriving DecidableEq, Repr

/-- The reasons an instruction has no meaning. -/
inductive Refusal where
  /-- An instruction of the table without a meaning yet, by its mnemonic: an arm of `exec` raises it. Safe. No arm does: every
  command has its meaning. -/
  | notModelled (mnemonic : String)
  deriving DecidableEq, Repr

/-- `STATUS` right after reset: every field 0 (R37). -/
def Status.reset : Status :=
  { err := false, crcMatch := false, slActive := false, dir := .decode, hasRow := false, bpp := .unset, ftype := .none }

/-- `ERRINFO` right after reset: 0 (R37). -/
def ErrInfo.reset : ErrInfo := { code := .none, d0 := 0, d1 := 0, opc := 0 }

/-- The machine right after reset (R37, R140): every register 0 but `CRC_STATE`; the reset input released; no byte of a line buffer
written; nothing waiting at the port, nothing answered. -/
def State.reset : State :=
  { lineMax := Config.lineMax
    inReset := false
    arg := 0
    result := 0
    status := Status.reset
    errInfo := ErrInfo.reset
    errRow := 0
    crcState := 0xFFFFFFFF
    slWidth := 0
    slRow := 0
    slCol := 0
    prev := []
    cur := []
    resets := 0
    inbox := []
    responses := [] }

end Sys2Proof.Machine
end

