-- ==== Sys2Proof/Machine/Operands.lean ====
section
/-! DEFINITION. How operands are taken apart and results put together (spec/30_encoding.md R63; 20_memory.md R43). -/

namespace Sys2Proof.Machine

/-- `byte_k(v)`: bits [8k+7:8k] of a 32-bit value (R9). -/
def byteOf (k : Nat) (v : Word) : Byte := v.extractLsb' (8 * k) 8

/-- The bytes `byte_0(v), ..., byte_{n-1}(v)`, first byte least significant (R43, R61, R63). -/
def bytesOf (n : Nat) (v : Word) : List Byte := (List.range n).map (fun k => byteOf k v)

/-- Bytes packed into a 32-bit value: byte `k` of the list is bits [8k+7:8k] (R43); the bits above are 0. For `RESULT` that is R119. For
the `arg` line of a last group of fewer than 4 bytes in `crc.bytes` and `sl.bytes` the spec says nothing of the bits above, and 0
there is a DESIGN CHOICE: assumption log 21. -/
def packBytes : List Byte → Word
  | [] => 0
  | b :: bs => packBytes bs <<< 8 ||| b.setWidth 32

/-- `BPP` as the number it is: bytes per pixel (R21). -/
def Bpp.toNat : Bpp → Nat
  | .unset => 0
  | .rgb => 3
  | .rgba => 4

/-- The filter type that a filter-type byte names; none above 4 (R92). -/
def FilterType.ofByte (v : Byte) : Option FilterType :=
  if v = 0 then some .none
  else if v = 1 then some .sub
  else if v = 2 then some .up
  else if v = 3 then some .average
  else if v = 4 then some .paeth
  else Option.none

/-- The operands of `UNFILT` in `ARG`: `X`, `A`, `B`, `C` from the least significant byte up (R60). -/
def unfiltX (arg : Word) : Byte := byteOf 0 arg

/-- `A` of `UNFILT` (R60). -/
def unfiltA (arg : Word) : Byte := byteOf 1 arg

/-- `B` of `UNFILT` (R60). -/
def unfiltB (arg : Word) : Byte := byteOf 2 arg

/-- `C` of `UNFILT` (R60). -/
def unfiltC (arg : Word) : Byte := byteOf 3 arg

/-- The colour types of a header (R36, R105): 2 RGB, 6 RGBA. -/
def colourRgb : Byte := 2

/-- Colour type 6, RGBA (R36, R105). -/
def colourRgba : Byte := 6

/-- The one bit depth accepted (R36, R105). -/
def acceptedBitDepth : Byte := 8

/-- The pairs `SL.BEGIN` accepts: decode (8, 2) and (8, 6), encode (8, 6) (R105). -/
def headerAccepted (ct bd : Byte) : Direction → Bool
  | .decode => bd == acceptedBitDepth && (ct == colourRgb || ct == colourRgba)
  | .encode => bd == acceptedBitDepth && ct == colourRgba

/-- The bytes per pixel of an accepted header: `(D = 0 and CT = 2) ? 3 : 4` (R105). -/
def headerBpp (ct : Byte) : Direction → Bpp
  | .decode => if ct = colourRgb then .rgb else .rgba
  | .encode => .rgba

end Sys2Proof.Machine
end

