-- ==== Sys2Proof/Machine/Flags.lean ====
section
/-! DEFINITION. `STATUS` and `ERRINFO`: the words a host reads and the updates of their fields (spec/10_state.md R21, R22). -/

namespace Sys2Proof.Machine

/-- The bit of `DIR`: 0 decode, 1 encode (R21). -/
def dirFlag : Direction → Bool
  | .decode => false
  | .encode => true

/-- The 3-bit field `BPP` (R21). -/
def Bpp.toBits : Bpp → BitVec 3
  | .unset => 0
  | .rgb => 3
  | .rgba => 4

/-- The byte of a filter type (R92). -/
def FilterType.toByte : FilterType → Byte
  | .none => 0
  | .sub => 1
  | .up => 2
  | .average => 3
  | .paeth => 4

/-- The error code byte (R127). -/
def ErrCode.toByte : ErrCode → Byte
  | .none => 0x00
  | .filter => 0x01
  | .unsupported => 0x02
  | .illegal => 0x03
  | .state => 0x04
  | .width => 0x05
  | .index => 0x06
  | .partialRow => 0x07

/-- `STATUS` as read: [31:24] 0, [23:16] `FTYPE`, [15:11] 0, [10:8] `BPP`, [7:5] 0, [4] `HAS_ROW`, [3] `DIR`, [2] `SL_ACTIVE`,
[1] `CRC_MATCH`, [0] `ERR` (R21). -/
def Status.toWord (st : Status) : Word :=
  0#8 ++ st.ftype.toByte ++ 0#5 ++ st.bpp.toBits ++ 0#3 ++ BitVec.ofBool st.hasRow ++ BitVec.ofBool (dirFlag st.dir)
    ++ BitVec.ofBool st.slActive ++ BitVec.ofBool st.crcMatch ++ BitVec.ofBool st.err

/-- `ERRINFO` as read: `OPC`, `D1`, `D0`, `CODE` from the most significant byte down (R22, R129). -/
def ErrInfo.toWord (e : ErrInfo) : Word := e.opc ++ e.d1 ++ e.d0 ++ e.code.toByte

/-- `STATUS.ERR <- b`, no other field (R72, R129). -/
def Status.setErr (b : Bool) (st : Status) : Status := { st with err := b }

/-- `STATUS.CRC_MATCH <- b`, no other field (R89). -/
def Status.setCrcMatch (b : Bool) (st : Status) : Status := { st with crcMatch := b }

/-- `STATUS.SL_ACTIVE <- b`, no other field (R110, R120). -/
def Status.setSlActive (b : Bool) (st : Status) : Status := { st with slActive := b }

/-- `STATUS.HAS_ROW <- 1`, no other field (R111). -/
def Status.rowDone (st : Status) : Status := { st with hasRow := true }

/-- `STATUS.FTYPE <- ft`, no other field (R110). -/
def Status.setFtype (ft : FilterType) (st : Status) : Status := { st with ftype := ft }

/-- The fields `SL.BEGIN` writes: `SL_ACTIVE` 1, `DIR`, `BPP`, `HAS_ROW` 0, `FTYPE` 0 (R105). -/
def Status.openSession (dir : Direction) (bpp : Bpp) (st : Status) : Status :=
  { st with slActive := true, dir := dir, bpp := bpp, hasRow := false, ftype := .none }

end Sys2Proof.Machine
end

