-- ==== Sys2Proof/Machine/Ops.lean ====
section
/-! DEFINITION. The shared operations: register updates, the storage of the line buffers, recording an error and the way back from
one, reset (spec/10_state.md, 60_exceptions.md, 70_reset_and_hazards.md). -/

namespace Sys2Proof.Machine

/-- The three outcomes of a step of this machine. -/
abbrev Result := Host.Outcome State Fault Refusal

/-- `R[ARG] <- v`. -/
def State.setArg (v : Word) (s : State) : State := { s with arg := v }

/-- `R[RESULT] <- v`. -/
def State.setResult (v : Word) (s : State) : State := { s with result := v }

/-- `R[STATUS] <- st`. -/
def State.setStatus (st : Status) (s : State) : State := { s with status := st }

/-- `R[ERRINFO] <- e` and `R[ERRROW] <- row`. -/
def State.setErrRecord (e : ErrInfo) (row : Word) (s : State) : State := { s with errInfo := e, errRow := row }

/-- `R[CRC_STATE] <- v`. -/
def State.setCrcState (v : Word) (s : State) : State := { s with crcState := v }

/-- `R[SL_WIDTH] <- v`. -/
def State.setSlWidth (v : Word) (s : State) : State := { s with slWidth := v }

/-- `R[SL_ROW] <- v`. -/
def State.setSlRow (v : Word) (s : State) : State := { s with slRow := v }

/-- `R[SL_COL] <- v`. -/
def State.setSlCol (v : Word) (s : State) : State := { s with slCol := v }

/-- `PREV <- m`. -/
def State.setPrev (m : Memory) (s : State) : State := { s with prev := m }

/-- `CUR <- m`. -/
def State.setCur (m : Memory) (s : State) : State := { s with cur := m }

/-- The level of the reset input. -/
def State.setInReset (b : Bool) (s : State) : State := { s with inReset := b }

/-- What is still to reach the port. -/
def State.setInbox (es : List BusEvent) (s : State) : State := { s with inbox := es }

/-- An access is answered (R45, R46). -/
def State.respond (r : Response) (s : State) : State := { s with responses := r :: s.responses }

/-- The storage of a line buffer has its one canonical form: indexes strictly rising. -/
abbrev Memory.wf (m : Memory) : Prop := m.Pairwise (fun x y => x.1 < y.1)

/-- The byte stored at an index, if one has been written. -/
def Memory.stored : Memory → Nat → Option Byte
  | [], _ => none
  | (k, v) :: m, a => if k = a then some v else Memory.stored m a

/-- Store one byte, keeping the canonical form. -/
def Memory.store : Memory → Nat → Byte → Memory
  | [], a, v => [(a, v)]
  | (k, w) :: m, a, v =>
    if a < k then (a, v) :: (k, w) :: m
    else if a = k then (a, v) :: m
    else (k, w) :: Memory.store m a v

/-- How many bytes each line buffer has: `4 * LINE_MAX` (R6, R32). -/
def State.capacity (s : State) : Nat := 4 * s.lineMax

/-- The storage of a line buffer. -/
def State.buffer (s : State) : LineBuf → Memory
  | .prev => s.prev
  | .cur => s.cur

/-- `PREV[i]`, `CUR[i]`: the byte written last, or the unspecified byte the last reset left there (R32, U1). -/
def State.lineByte (s : State) (b : LineBuf) (i : Nat) : Byte :=
  ((s.buffer b).stored i).getD (Config.unwrittenByte s.resets b i)

/-- `rowlen = SL_WIDTH * BPP`, exact (R31). -/
def State.rowlen (s : State) : Nat := s.slWidth.toNat * s.status.bpp.toNat

/-- `raise E_x(d0, d1, row)` inside a command whose opcode byte is `opc` (60_exceptions.md R129): the one operation that records an
error. -/
def raise (opc : Byte) (code : ErrCode) (d0 d1 : Byte) (row : Word) (s : State) : State :=
  (s.setStatus (s.status.setErr true)).setErrRecord { code := code, d0 := d0, d1 := d1, opc := opc } row

/-- `ClearErr()`, the way back from an error: `ERR`, `ERRINFO`, `ERRROW` to 0 and nothing else (R72, R133). -/
def clearErr (s : State) : State :=
  (s.setStatus (s.status.setErr false)).setErrRecord ErrInfo.reset 0

/-- `Reset()`: every piece of the block's state to its value of R37 (R73, R140). The line buffers become unspecified: no byte is
written and `Config.unwrittenByte` has a new argument. What lies outside the block (its reset input, what waits at the port,
what was answered) and the parameter `LINE_MAX` stay. -/
def resetBlock (s : State) : State :=
  { State.reset with
    lineMax := s.lineMax
    inReset := s.inReset
    resets := s.resets + 1
    inbox := s.inbox
    responses := s.responses }

/-- A command other than `NOP`, `CLRERR` and `SRESET` is discarded while `STATUS.ERR = 1` (R131): it changes no state and raises
nothing. Otherwise its rule is performed. Assumption log 9. -/
def unlessErr (s : State) (perform : State → Result) : Result :=
  if s.status.err then .next s else perform s

end Sys2Proof.Machine
end

