-- ==== Sys2Proof/Machine/Control.lean ====
section
/-! DEFINITION. The control commands `NOP`, `CLRERR`, `SRESET` (spec/40_control.md R71 to R73). They run also while
`STATUS.ERR = 1`. -/

namespace Sys2Proof.Machine

/-- `NOP`: nothing (R71). -/
def execNop (s : State) : Result := .next s

/-- `CLRERR`: `ClearErr()` (R72). -/
def execClrerr (s : State) : Result := .next (clearErr s)

/-- `SRESET`: `Reset()` (R73). -/
def execSreset (s : State) : Result := .next (resetBlock s)

end Sys2Proof.Machine
end

