-- ==== Sys2Proof/WellFormed.lean ====
section
/-! DEFINITION. Which terms of `Instr` are commands: the byte count of format W is 1 to 4 (30_encoding.md R61). -/

namespace Sys2Proof

/-- The count of format W: `n = N1 + 1`, so 1 to 4 (R61). -/
def wellFormedCount (n : Nat) : Bool := decide (1 ≤ n ∧ n ≤ 4)

/-- The check of R61 on the three commands of format W. Every other operand is a field of exactly its width, and every value of
it is legal in the encoding (R66). -/
def Instr.wellFormed : Instr → Bool
  | .nop => true
  | .clrerr => true
  | .sreset => true
  | .crcInit => true
  | .crcByte _ => true
  | .crcWord n => wellFormedCount n
  | .crcLoad => true
  | .crcChk => true
  | .crcTab _ => true
  | .slBegin _ _ _ => true
  | .slPush _ => true
  | .slPushw n => wellFormedCount n
  | .slReadw n => wellFormedCount n
  | .slEnd => true
  | .paeth _ _ _ => true
  | .unfilt _ => true

end Sys2Proof
end

