-- ==== Sys2Proof/Decode.lean ====
section
/-! DEFINITION. The decoder of 30_encoding.md R67, total on every 32-bit word, and the encoder of R58 to R62. -/

namespace Sys2Proof

/-- Why a word is no command. R65 has the one answer "illegal" (`E_ILLEGAL`) for both. Assumption log 16. -/
inductive Illegal where
  /-- The opcode byte is not in the map of R64. -/
  | reservedOpcode
  /-- The opcode is in the map, but a bit its format marks "0" is 1. -/
  | reservedBitSet
  deriving DecidableEq, Repr

/-- What the decoder answers: a command, or a named reason why there is none. -/
inductive Decoded where
  | command (i : Instr)
  | illegal (why : Illegal)
  deriving DecidableEq, Repr

/-- The opcode byte, bits [31:24] (R57). -/
def opcodeByte (w : Word) : Byte := w.extractLsb' 24 8

/-- Bits [7:0] of the word: `IMM8`, `A`, `FT`, `CT` (R59, R60, R62). -/
def fieldLow (w : Word) : Byte := w.extractLsb' 0 8

/-- Bits [15:8] of the word: `B`, `BD` (R60, R62). -/
def fieldMid (w : Word) : Byte := w.extractLsb' 8 8

/-- Bits [23:16] of the word: `C` (R60). -/
def fieldHigh (w : Word) : Byte := w.extractLsb' 16 8

/-- The byte count `n = N1 + 1`, `N1` = bits [1:0] (R61). -/
def fieldCount (w : Word) : Nat := (w.extractLsb' 0 2).toNat + 1

/-- `DIR`, bit 16: 0 decode, 1 encode (R62). -/
def fieldDir (w : Word) : Direction := if w.getLsbD 16 then .encode else .decode

/-- One row of the opcode map of R64 with the operands of its format (R63). -/
structure OpRow where
  mnemonic : String
  pattern : Word
  mask : Word
  build : Word → Instr

/-- The opcode map of R64, row by row. -/
def opcodeMap : List OpRow :=
  [⟨"NOP", 0x00000000, 0xFFFFFFFF, fun _ => .nop⟩,
   ⟨"CLRERR", 0x01000000, 0xFFFFFFFF, fun _ => .clrerr⟩,
   ⟨"SRESET", 0x02000000, 0xFFFFFFFF, fun _ => .sreset⟩,
   ⟨"CRC.INIT", 0x10000000, 0xFFFFFFFF, fun _ => .crcInit⟩,
   ⟨"CRC.BYTE", 0x11000000, 0xFFFFFF00, fun w => .crcByte (fieldLow w)⟩,
   ⟨"CRC.WORD", 0x12000000, 0xFFFFFFFC, fun w => .crcWord (fieldCount w)⟩,
   ⟨"CRC.LOAD", 0x13000000, 0xFFFFFFFF, fun _ => .crcLoad⟩,
   ⟨"CRC.CHK", 0x14000000, 0xFFFFFFFF, fun _ => .crcChk⟩,
   ⟨"CRC.TAB", 0x15000000, 0xFFFFFF00, fun w => .crcTab (fieldLow w)⟩,
   ⟨"SL.BEGIN", 0x20000000, 0xFFFE0000, fun w => .slBegin (fieldLow w) (fieldMid w) (fieldDir w)⟩,
   ⟨"SL.PUSH", 0x21000000, 0xFFFFFF00, fun w => .slPush (fieldLow w)⟩,
   ⟨"SL.PUSHW", 0x22000000, 0xFFFFFFFC, fun w => .slPushw (fieldCount w)⟩,
   ⟨"SL.READW", 0x23000000, 0xFFFFFFFC, fun w => .slReadw (fieldCount w)⟩,
   ⟨"SL.END", 0x24000000, 0xFFFFFFFF, fun _ => .slEnd⟩,
   ⟨"PAETH", 0x30000000, 0xFF000000, fun w => .paeth (fieldLow w) (fieldMid w) (fieldHigh w)⟩,
   ⟨"UNFILT", 0x31000000, 0xFFFFFF00, fun w => .unfilt (fieldLow w)⟩]

/-- A word selects the row whose `(word and mask) = match` (R64). -/
def OpRow.selects (r : OpRow) (w : Word) : Bool := w &&& r.mask == r.pattern

/-- Which of the two reasons of R65 makes a word illegal that no row selects. -/
def illegalReason (w : Word) : Illegal :=
  if opcodeMap.any (fun r => opcodeByte r.pattern == opcodeByte w) then .reservedBitSet else .reservedOpcode

/-- `Decode(w)` of R67. -/
def decode (w : Word) : Decoded :=
  match opcodeMap.find? (fun r => r.selects w) with
  | some r => .command (r.build w)
  | none => .illegal (illegalReason w)

/-- The opcode byte of each command (R64). -/
def Instr.opcode : Instr → Byte
  | .nop => 0x00
  | .clrerr => 0x01
  | .sreset => 0x02
  | .crcInit => 0x10
  | .crcByte _ => 0x11
  | .crcWord _ => 0x12
  | .crcLoad => 0x13
  | .crcChk => 0x14
  | .crcTab _ => 0x15
  | .slBegin _ _ _ => 0x20
  | .slPush _ => 0x21
  | .slPushw _ => 0x22
  | .slReadw _ => 0x23
  | .slEnd => 0x24
  | .paeth _ _ _ => 0x30
  | .unfilt _ => 0x31

/-- Each command's mnemonic (R64). -/
def Instr.mnemonic : Instr → String
  | .nop => "NOP"
  | .clrerr => "CLRERR"
  | .sreset => "SRESET"
  | .crcInit => "CRC.INIT"
  | .crcByte _ => "CRC.BYTE"
  | .crcWord _ => "CRC.WORD"
  | .crcLoad => "CRC.LOAD"
  | .crcChk => "CRC.CHK"
  | .crcTab _ => "CRC.TAB"
  | .slBegin _ _ _ => "SL.BEGIN"
  | .slPush _ => "SL.PUSH"
  | .slPushw _ => "SL.PUSHW"
  | .slReadw _ => "SL.READW"
  | .slEnd => "SL.END"
  | .paeth _ _ _ => "PAETH"
  | .unfilt _ => "UNFILT"

/-- Format N (R58). -/
def encodeN (opc : Byte) : Word := opc ++ 0#24

/-- Format I8 (R59); format U has the same layout with `FT` in the low byte (R60). -/
def encodeI8 (opc imm : Byte) : Word := opc ++ 0#16 ++ imm

/-- Format W (R61): `N1 = n - 1`. -/
def encodeW (opc : Byte) (n : Nat) : Word := opc ++ 0#22 ++ BitVec.ofNat 2 (n - 1)

/-- The `DIR` bit (R62). -/
def Direction.bit : Direction → BitVec 1
  | .decode => 0
  | .encode => 1

/-- Format B (R62). -/
def encodeB (opc : Byte) (dir : Direction) (bd ct : Byte) : Word := opc ++ 0#7 ++ dir.bit ++ bd ++ ct

/-- Format P (R60). -/
def encodeP (opc c b a : Byte) : Word := opc ++ c ++ b ++ a

/-- The word of a command, by its format (R58 to R62). -/
def encode (i : Instr) : Word :=
  match i with
  | .nop => encodeN i.opcode
  | .clrerr => encodeN i.opcode
  | .sreset => encodeN i.opcode
  | .crcInit => encodeN i.opcode
  | .crcByte v => encodeI8 i.opcode v
  | .crcWord n => encodeW i.opcode n
  | .crcLoad => encodeN i.opcode
  | .crcChk => encodeN i.opcode
  | .crcTab idx => encodeI8 i.opcode idx
  | .slBegin ct bd dir => encodeB i.opcode dir bd ct
  | .slPush v => encodeI8 i.opcode v
  | .slPushw n => encodeW i.opcode n
  | .slReadw n => encodeW i.opcode n
  | .slEnd => encodeN i.opcode
  | .paeth a b c => encodeP i.opcode c b a
  | .unfilt ft => encodeI8 i.opcode ft

/-- The command word of the opcode table's numbering: its `nbits` low bits are `w`'s, the bits above are 0 (R56: every command is
one 32-bit word, bit 0 the least significant). -/
def tableWord (nbits w : Nat) : Word := BitVec.ofNat 32 (w % 2 ^ nbits)

/-- The command the decoder reads from a word numbered as spec/opcode_table.json numbers it. -/
def decodeTableWord (nbits w : Nat) : Option Instr :=
  match decode (tableWord nbits w) with
  | .command i => some i
  | .illegal _ => none

end Sys2Proof
end

