-- ==== Sys2Proof/Machine/Crc.lean ====
section
/-! DEFINITION. The CRC part: the table, the byte step, the checksum, and its six commands (spec/41_crc.md R82 to R90). -/

namespace Sys2Proof.Machine

/-- The polynomial constant, used as given in a right-shifting register (R36, R81, C4). Assumption log 13. -/
def crcPolynomial : Word := 0xEDB88320

/-- The initial register value (R36, R81). -/
def crcInitial : Word := 0xFFFFFFFF

/-- The final XOR (R36, R81). -/
def crcFinalXor : Word := 0xFFFFFFFF

/-- One of the 8 steps of R82. -/
def crcBitStep (c : Word) : Word := if c.getLsbD 0 then crcPolynomial ^^^ (c >>> 1) else c >>> 1

/-- `k` steps of R82. -/
def crcBitSteps : Nat → Word → Word
  | 0, c => c
  | k + 1, c => crcBitSteps k (crcBitStep c)

/-- `TABLE[n]` (R82). -/
def crcTable (n : Byte) : Word := crcBitSteps 8 (n.setWidth 32)

/-- `CrcUpdate(s, v) = TABLE[(s xor zext_32(v))[7:0]] xor (s >> 8)` (R83). -/
def crcUpdate (s : Word) (v : Byte) : Word := crcTable ((s ^^^ v.setWidth 32).extractLsb' 0 8) ^^^ (s >>> 8)

/-- `Fold(s, bytes)` (R84). -/
def crcFold (s : Word) (bytes : List Byte) : Word := bytes.foldl crcUpdate s

/-- `CRC(bytes)` (R84). -/
def crcOf (bytes : List Byte) : Word := crcFold crcInitial bytes ^^^ crcFinalXor

/-- The checksum of a chunk: over `type ++ data`, not the length (R91). -/
def chunkChecksum (type data : List Byte) : Word := crcOf (type ++ data)

/-- `CRC_RESULT`, derived: `R[CRC_STATE] xor 0xFFFFFFFF` (10_state.md R27). -/
def State.crcResult (s : State) : Word := s.crcState ^^^ crcFinalXor

/-- `CRC.INIT` (R85). -/
def execCrcInit (s : State) : Result :=
  unlessErr s fun s => .next (s.setCrcState crcInitial)

/-- `CRC.BYTE` (R86). -/
def execCrcByte (v : Byte) (s : State) : Result :=
  unlessErr s fun s => .next (s.setCrcState (crcUpdate s.crcState v))

/-- `CRC.WORD` (R87): the first `n` bytes of `ARG`, in order. -/
def execCrcWord (n : Nat) (s : State) : Result :=
  unlessErr s fun s => .next (s.setCrcState (crcFold s.crcState (bytesOf n s.arg)))

/-- `CRC.LOAD` (R88). -/
def execCrcLoad (s : State) : Result :=
  unlessErr s fun s => .next (s.setCrcState s.arg)

/-- `CRC.CHK` (R89): a mismatch is no error. -/
def execCrcChk (s : State) : Result :=
  unlessErr s fun s => .next (s.setStatus (s.status.setCrcMatch (s.crcResult == s.arg)))

/-- `CRC.TAB` (R90). -/
def execCrcTab (idx : Byte) (s : State) : Result :=
  unlessErr s fun s => .next (s.setResult (crcTable idx))

end Sys2Proof.Machine
end

