-- ==== Sys2Proof/Machine/Predictor.lean ====
section
/-! DEFINITION. The predictors, the reconstruction of a byte, and the commands `PAETH` and `UNFILT` (spec/42_predictor.md R92 to R97).
Every intermediate is an exact integer; only the final sum is taken mod 256 (00_scope.md R8; R100; 90_conflicts.md C3). -/

namespace Sys2Proof.Machine

/-- Which neighbour the Paeth predictor takes (R94). -/
inductive PaethSel where
  | a
  | b
  | c
  deriving DecidableEq, Repr

/-- `Sel`: 0 = a, 1 = b, 2 = c (R94). -/
def PaethSel.code : PaethSel → BitVec 2
  | .a => 0
  | .b => 1
  | .c => 2

/-- The exact estimate `p = a + b - c`, from -255 to 510 (R94). -/
def paethEstimate (a b c : Byte) : Int := (a.toNat : Int) + (b.toNat : Int) - (c.toNat : Int)

/-- The exact distance `|p - x|` of the estimate from a neighbour (R94). -/
def paethDistance (a b c x : Byte) : Nat := (paethEstimate a b c - (x.toNat : Int)).natAbs

/-- `Sel(a, b, c)` with its tie order: `a` wins every tie it is in, `b` wins a tie with `c` (R94). -/
def paethSel (a b c : Byte) : PaethSel :=
  if paethDistance a b c a ≤ paethDistance a b c b ∧ paethDistance a b c a ≤ paethDistance a b c c then .a
  else if paethDistance a b c b ≤ paethDistance a b c c then .b
  else .c

/-- `Paeth(a, b, c)` (R94). -/
def paethValue (a b c : Byte) : Byte :=
  match paethSel a b c with
  | .a => a
  | .b => b
  | .c => c

/-- `Pred(ft, a, b, c)` as an exact integer (R93). -/
def predictor (ft : FilterType) (a b c : Byte) : Nat :=
  match ft with
  | .none => 0
  | .sub => a.toNat
  | .up => b.toNat
  | .average => (a.toNat + b.toNat) / 2
  | .paeth => (paethValue a b c).toNat

/-- `Recon(ft, x, a, b, c) = (x + Pred(ft, a, b, c)) mod 256` (R95). -/
def recon (ft : FilterType) (x a b c : Byte) : Byte := BitVec.ofNat 8 ((x.toNat + predictor ft a b c) % 256)

/-- `PAETH` (R96): `RESULT[7:0]` the value, `RESULT[9:8]` the selection code. -/
def execPaeth (a b c : Byte) (s : State) : Result :=
  unlessErr s fun s => .next (s.setResult (((paethSel a b c).code ++ paethValue a b c).setWidth 32))

/-- `UNFILT` (R97): an unknown filter type raises `E_FILTER` with row 0 and leaves the session alone (D38). -/
def execUnfilt (ft : Byte) (s : State) : Result :=
  unlessErr s fun s =>
    match FilterType.ofByte ft with
    | Option.none => .next (raise (Instr.opcode (.unfilt ft)) .filter ft 0 0 s)
    | some t => .next (s.setResult ((recon t (unfiltX s.arg) (unfiltA s.arg) (unfiltB s.arg) (unfiltC s.arg)).setWidth 32))

end Sys2Proof.Machine
end

