-- ==== Sys2Proof/Machine/Scanline.lean ====
section
/-! DEFINITION. The scanline session: neighbours, pushing a byte, completing a row, the output row, and the five session commands
(spec/10_state.md R33; spec/43_scanline.md R105 to R120). -/

namespace Sys2Proof.Machine

/-- The neighbour `a` of sample `i`: the reconstructed byte one pixel back in the current row, 0 in the first pixel (R33). -/
def State.neighbourA (s : State) (i : Nat) : Byte :=
  if s.status.bpp.toNat ≤ i then s.lineByte .cur (i - s.status.bpp.toNat) else 0

/-- The neighbour `b`: the byte above, 0 in the first row (R33). -/
def State.neighbourB (s : State) (i : Nat) : Byte :=
  if s.status.hasRow then s.lineByte .prev i else 0

/-- The neighbour `c`: the byte above one pixel back, 0 in the first row or the first pixel (R33). -/
def State.neighbourC (s : State) (i : Nat) : Byte :=
  if s.status.hasRow = true ∧ s.status.bpp.toNat ≤ i then s.lineByte .prev (i - s.status.bpp.toNat) else 0

/-- `PREV` after `PREV[0 .. len-1] <- CUR[0 .. len-1]`; its other bytes stay (R32, R111). Assumption log 17, 20. -/
def State.copiedRow (s : State) (len : Nat) : Memory :=
  (List.range len).map (fun i => (i, s.lineByte .cur i)) ++ s.prev.filter (fun cell => len ≤ cell.1)

/-- `CompleteRow(len)` (R111): `SL_ROW` counts modulo 2^32. -/
def completeRow (len : Nat) (s : State) : State :=
  (((s.setPrev (s.copiedRow len)).setStatus s.status.rowDone).setSlRow (s.slRow + 1)).setSlCol 0

/-- `CUR[i] <- v`. -/
def State.storeCur (i : Nat) (v : Byte) (s : State) : State := s.setCur (s.cur.store i v)

/-- What `PushByte` reports (R109): the byte was taken (`OK`), it was not (`FAIL`), or the machine stopped. -/
inductive Push where
  | taken (s : State)
  | failed (s : State)
  | stopped (f : Fault)
  deriving DecidableEq, Repr

/-- Decode at `SL_COL = 0`: the filter-type byte of a row (R110). A byte above 4 raises `E_FILTER` with the row index and aborts the
session. -/
def pushFilterByte (opc v : Byte) (s : State) : Push :=
  match FilterType.ofByte v with
  | Option.none =>
    let r := raise opc .filter v 0 s.slRow s
    .failed (r.setStatus (r.status.setSlActive false))
  | some t => .taken ((s.setStatus (s.status.setFtype t)).setSlCol 1)

/-- The reconstructed byte of sample `i` when the filtered byte is `v` (R33, R95, R111). -/
def State.reconstructed (s : State) (i : Nat) (v : Byte) : Byte :=
  recon s.status.ftype v (s.neighbourA i) (s.neighbourB i) (s.neighbourC i)

/-- Decode at `SL_COL >= 1`: a filtered sample (R111); outside its range `1 <= SL_COL <= rowlen` as the pseudocode says (assumption
log 10). An index past the end of the line buffer stops the machine (assumption
log 6). -/
def pushSample (v : Byte) (s : State) : Push :=
  let i := s.slCol.toNat - 1
  if s.capacity ≤ i then .stopped .outsideLineBuffer
  else
    let t := s.storeCur i (s.reconstructed i v)
    if s.slCol.toNat = s.rowlen then .taken (completeRow s.rowlen t)
    else .taken (t.setSlCol (s.slCol + 1))

/-- `PushDecode(v)` (R110, R111). -/
def pushDecode (opc v : Byte) (s : State) : Push :=
  if s.slCol = 0 then pushFilterByte opc v s else pushSample v s

/-- `PushEncode(v)` (R114): a raster byte. -/
def pushEncode (v : Byte) (s : State) : Push :=
  if s.capacity ≤ s.slCol.toNat then .stopped .outsideLineBuffer
  else
    let t := s.storeCur s.slCol.toNat v
    if s.slCol.toNat + 1 = 4 * s.slWidth.toNat then .taken (completeRow (4 * s.slWidth.toNat) t)
    else .taken (t.setSlCol (s.slCol + 1))

/-- `PushByte(v)` of a command with opcode byte `opc` (R109). -/
def pushByte (opc v : Byte) (s : State) : Push :=
  match s.status.dir with
  | .decode => pushDecode opc v s
  | .encode => pushEncode v s

/-- The bytes of `SL.PUSHW` in order, stopping at the first that is not taken (R115). -/
def pushBytes (opc : Byte) : List Byte → State → Push
  | [], s => .taken s
  | v :: vs, s =>
    match pushByte opc v s with
    | .taken t => pushBytes opc vs t
    | .failed t => .failed t
    | .stopped f => .stopped f

/-- A push command ends in the state its bytes left, taken or not (R108, R115). -/
def Push.result : Push → Result
  | .taken s => .next s
  | .failed s => .next s
  | .stopped f => .fault f

/-- `OUTLEN` (R118). -/
def State.outLen (s : State) : Nat :=
  match s.status.dir with
  | .decode => 4 * s.slWidth.toNat
  | .encode => 1 + 4 * s.slWidth.toNat

/-- `PREV[i]` for the output row; none past the end of the buffer (assumption log 6). -/
def State.rowByte (s : State) (i : Nat) : Option Byte :=
  if i < s.capacity then some (s.lineByte .prev i) else none

/-- The alpha a pixel of 3 bytes gets (R36, R118). -/
def alphaFill : Byte := 255

/-- `OUT(j)` (R118): in decode the RGBA row, alpha 255 where the stream has none; in encode the filter-type byte 0, then the raster
row. -/
def State.outByte (s : State) (j : Nat) : Option Byte :=
  match s.status.dir with
  | .decode =>
    if j % 4 < s.status.bpp.toNat then s.rowByte (j / 4 * s.status.bpp.toNat + j % 4) else some alphaFill
  | .encode => if j = 0 then some 0 else s.rowByte (j - 1)

/-- `OUT(i), ..., OUT(i + n - 1)`. -/
def State.outBytes (s : State) (i : Nat) : Nat → Option (List Byte)
  | 0 => some []
  | n + 1 =>
    match s.outByte i, s.outBytes (i + 1) n with
    | some b, some bs => some (b :: bs)
    | _, _ => none

/-- `SL.BEGIN` (R105): the header is checked before the width (R130). -/
def execSlBegin (ct bd : Byte) (dir : Direction) (s : State) : Result :=
  unlessErr s fun s =>
    if headerAccepted ct bd dir = false then
      .next (raise (Instr.opcode (.slBegin ct bd dir)) .unsupported ct bd 0 s)
    else if s.arg = 0 ∨ s.lineMax < s.arg.toNat then
      .next (raise (Instr.opcode (.slBegin ct bd dir)) .width 0 0 0 s)
    else
      .next ((((s.setStatus (s.status.openSession dir (headerBpp ct dir))).setSlWidth s.arg).setSlRow 0).setSlCol 0)

/-- `SL.PUSH` (R108). -/
def execSlPush (v : Byte) (s : State) : Result :=
  unlessErr s fun s =>
    if s.status.slActive = false then .next (raise (Instr.opcode (.slPush v)) .state 0 0 0 s)
    else (pushByte (Instr.opcode (.slPush v)) v s).result

/-- `SL.PUSHW` (R115). -/
def execSlPushw (n : Nat) (s : State) : Result :=
  unlessErr s fun s =>
    if s.status.slActive = false then .next (raise (Instr.opcode (.slPushw n)) .state 0 0 0 s)
    else (pushBytes (Instr.opcode (.slPushw n)) (bytesOf n s.arg) s).result

/-- `SL.READW` (R119): no session need be open, a completed row must exist; `i + n` is exact. -/
def execSlReadw (n : Nat) (s : State) : Result :=
  unlessErr s fun s =>
    if s.status.hasRow = false then .next (raise (Instr.opcode (.slReadw n)) .index 0 0 0 s)
    else if s.outLen < s.arg.toNat + n then .next (raise (Instr.opcode (.slReadw n)) .index 0 0 0 s)
    else
      match s.outBytes s.arg.toNat n with
      | some bs => .next (s.setResult (packBytes bs))
      | none => .fault .outsideLineBuffer

/-- `SL.END` (R120): the session check before the partial-row check (R130). -/
def execSlEnd (s : State) : Result :=
  unlessErr s fun s =>
    if s.status.slActive = false then .next (raise (Instr.opcode .slEnd) .state 0 0 0 s)
    else if s.slCol ≠ 0 then .next (raise (Instr.opcode .slEnd) .partialRow 0 0 0 s)
    else .next (s.setStatus (s.status.setSlActive false))

end Sys2Proof.Machine
end

