-- ==== Sys2Proof/Machine/Dispatch.lean ====
section
/-! DEFINITION. The meaning of each command, one arm per constructor of `Instr` (spec/30_encoding.md R64). -/

namespace Sys2Proof.Machine

def exec (i : Instr) (s : State) : Host.Outcome State Fault Refusal :=
  match i with
  | .nop => Sys2Proof.Machine.execNop s
  | .clrerr => Sys2Proof.Machine.execClrerr s
  | .sreset => Sys2Proof.Machine.execSreset s
  | .crcInit => Sys2Proof.Machine.execCrcInit s
  | .crcByte v => Sys2Proof.Machine.execCrcByte v s
  | .crcWord n => Sys2Proof.Machine.execCrcWord n s
  | .crcLoad => Sys2Proof.Machine.execCrcLoad s
  | .crcChk => Sys2Proof.Machine.execCrcChk s
  | .crcTab idx => Sys2Proof.Machine.execCrcTab idx s
  | .slBegin ct bd dir => Sys2Proof.Machine.execSlBegin ct bd dir s
  | .slPush v => Sys2Proof.Machine.execSlPush v s
  | .slPushw n => Sys2Proof.Machine.execSlPushw n s
  | .slReadw n => Sys2Proof.Machine.execSlReadw n s
  | .slEnd => Sys2Proof.Machine.execSlEnd s
  | .paeth a b c => Sys2Proof.Machine.execPaeth a b c s
  | .unfilt ft => Sys2Proof.Machine.execUnfilt ft s

end Sys2Proof.Machine
end

