-- ==== Sys2Proof/Machine/Bus.lean ====
section
/-! DEFINITION. The port of the block: the register window, bus reads and writes, the execution of a command word, the reset input
(spec/10_state.md R17; 20_memory.md R41 to R50; 40_control.md R70; 70_reset_and_hazards.md R140). -/

namespace Sys2Proof.Machine

/-- The 13 registers of the window (R17). -/
inductive Reg where
  | id
  | cap
  | cmd
  | arg
  | result
  | status
  | errinfo
  | errrow
  | crcState
  | crcResult
  | slWidth
  | slRow
  | slCol
  deriving DecidableEq, Repr

/-- The offset of a register (R17). -/
def Reg.offset : Reg → BitVec 8
  | .id => 0x00
  | .cap => 0x04
  | .cmd => 0x08
  | .arg => 0x0C
  | .result => 0x10
  | .status => 0x14
  | .errinfo => 0x18
  | .errrow => 0x1C
  | .crcState => 0x20
  | .crcResult => 0x24
  | .slWidth => 0x28
  | .slRow => 0x2C
  | .slCol => 0x30

/-- Every register once, in the order of the map (R17). -/
def Reg.all : List Reg :=
  [.id, .cap, .cmd, .arg, .result, .status, .errinfo, .errrow, .crcState, .crcResult, .slWidth, .slRow, .slCol]

/-- The register at an offset; none at an unmapped one (R17, R48). -/
def Reg.atOffset (off : BitVec 8) : Option Reg := Reg.all.find? (fun r => r.offset == off)

/-- The value of `ID` (R18). -/
def idValue : Word := 0x504E4731

/-- The value a read of a register returns (R18 to R30). `CMD` reads 0 (R20). -/
def readReg (s : State) : Reg → Word
  | .id => idValue
  | .cap => BitVec.ofNat 32 s.lineMax
  | .cmd => 0
  | .arg => s.arg
  | .result => s.result
  | .status => s.status.toWord
  | .errinfo => s.errInfo.toWord
  | .errrow => s.errRow
  | .crcState => s.crcState
  | .crcResult => s.crcResult
  | .slWidth => s.slWidth
  | .slRow => s.slRow
  | .slCol => s.slCol

/-- The only accepted access: 32 bits wide at a multiple of 4 (R47). -/
def accessAccepted (width : Nat) (off : BitVec 8) : Bool := width == 32 && off.toNat % 4 == 0

/-- `BusRead(off) -> (data, resp)` (R45). -/
def busRead (width : Nat) (off : BitVec 8) (s : State) : Word × Resp :=
  if accessAccepted width off then
    match Reg.atOffset off with
    | some r => (readReg s r, .okay)
    | none => (0, .okay)
  else (0, .error)

/-- `Execute(w)` (40_control.md R70). A word that is no command raises `E_ILLEGAL` (30_encoding.md R65), unless an error is recorded
already: then it is discarded (R131). -/
def execute (w : Word) (s : State) : Result :=
  match decode w with
  | .command i => exec i s
  | .illegal _ => unlessErr s fun s => .next (raise (opcodeByte w) .illegal 0 0 0 s)

/-- The effect of an accepted write to a register (R46, R49): `CMD` executes the word, `ARG` takes it, the others ignore it. -/
def writeReg (r : Reg) (data : Word) (s : State) : Result :=
  match r with
  | .cmd => execute data s
  | .arg => .next (s.setArg data)
  | .id => .next s
  | .cap => .next s
  | .result => .next s
  | .status => .next s
  | .errinfo => .next s
  | .errrow => .next s
  | .crcState => .next s
  | .crcResult => .next s
  | .slWidth => .next s
  | .slRow => .next s
  | .slCol => .next s

/-- The effect of `BusWrite(off, data)` on the state (R46): none if the access is refused (R47) or the offset unmapped (R48). -/
def busWrite (width : Nat) (off : BitVec 8) (data : Word) (s : State) : Result :=
  if accessAccepted width off then
    match Reg.atOffset off with
    | some r => writeReg r data s
    | none => .next s
  else .next s

/-- The response of `BusWrite(off, data)` (R46, R47). -/
def busWriteResp (width : Nat) (off : BitVec 8) : Resp := if accessAccepted width off then .okay else .error

/-- The host gets the answer to its write once the whole effect is in place (R46). -/
def answerWrite (r : Resp) : Result → Result
  | .next s => .next (s.respond (.writeDone r))
  | .fault f => .fault f
  | .refused r => .refused r

/-- The reset input changes its level (R140). While it is asserted nothing is promised of the state; when it is released every piece
of state has its reset value. Assumption log 7. -/
def driveReset (asserted : Bool) (s : State) : State :=
  if asserted then s.setInReset true
  else if s.inReset then (resetBlock s).setInReset false
  else s

/-- One event at the port (R53: each is complete before the next). While the reset input is asserted the block accepts no
transaction, and what the interconnect returns is the platform's (R140, P4; assumption log 7). -/
def deliver (e : BusEvent) (s : State) : Result :=
  match e with
  | .read width off =>
    if s.inReset then
      .next (s.respond (.readDone (Config.inResetData s.responses.length) (Config.inResetResp s.responses.length)))
    else .next (s.respond (.readDone (busRead width off s).1 (busRead width off s).2))
  | .write width off data =>
    if s.inReset then .next (s.respond (.writeDone (Config.inResetResp s.responses.length)))
    else answerWrite (busWriteResp width off) (busWrite width off data s)
  | .resetLine asserted => .next (driveReset asserted s)

/-- The offset at which a host access to address `addr` reaches the port of a block whose window begins at `base`; none outside the
256-byte window (R41, R51: such an access is not the block's). Assumption log 4. -/
def windowOffset (base addr : Nat) : Option (BitVec 8) :=
  if base ≤ addr ∧ addr < base + 256 then some (BitVec.ofNat 8 (addr - base)) else none

/-- The event of a host read at a host address, if it is the block's (R41). -/
def hostRead (width addr : Nat) : Option BusEvent :=
  (windowOffset Config.base addr).map (fun off => .read width off)

/-- The event of a host write at a host address, if it is the block's (R41). -/
def hostWrite (width addr : Nat) (data : Word) : Option BusEvent :=
  (windowOffset Config.base addr).map (fun off => .write width off data)

end Sys2Proof.Machine
end

