-- ==== Sys2Proof/Machine/Step.lean ====
section
/-! DEFINITION. One step: the next event at the port, wholly (spec/20_memory.md R53). There is no program counter and no fetch (10_state.md
R16): the machine runs the command words that are written to `CMD`. -/

namespace Sys2Proof.Machine

/-- The first waiting event is taken and has its whole effect. With nothing waiting, nothing happens (assumption log 1). One
event is one step, untimed (assumption log 15); several hosts are any order of the events (assumption log 11). -/
def step (s : State) : Host.Outcome State Fault Refusal :=
  match s.inbox with
  | [] => .next s
  | e :: rest => deliver e (s.setInbox rest)

/-- `s` with the command word placed as the next thing to reach the port: a 32-bit write of it to `CMD`, the block out of reset
(assumption log 2). -/
def State.withFetchWord (s : State) (nbits w : Nat) : State :=
  (s.setInReset false).setInbox (.write 32 Reg.cmd.offset (tableWord nbits w) :: s.inbox)

end Sys2Proof.Machine
end

