-- ==== Sys2Proof/Machine/Assembler.lean ====
section
/-! DEFINITION. The spec's assembler lines and pseudo-instructions as data, the host actions they stand for, and the reading of a line's
text (spec/30_encoding.md R68, R69). -/

namespace Sys2Proof.Machine

/-- One line, one host action (R68). -/
inductive AsmLine where
  /-- `arg <u32>`. -/
  | arg (v : Word)
  /-- `rd <REG>`. -/
  | rd (r : Reg)
  /-- A command line. -/
  | cmd (i : Instr)
  deriving DecidableEq, Repr

/-- The bus transaction of a line (R68). -/
def AsmLine.event : AsmLine → BusEvent
  | .arg v => .write 32 Reg.arg.offset v
  | .rd r => .read 32 r.offset
  | .cmd i => .write 32 Reg.cmd.offset (encode i)

/-- The pseudo-instructions of R69. -/
inductive Pseudo where
  /-- `crc.w32 <v>`. -/
  | crcW32 (v : Word)
  /-- `crc.bytes <b0>, ..., <bm>`. -/
  | crcBytes (bs : List Byte)
  /-- `crc.verify <v>`. -/
  | crcVerify (v : Word)
  /-- `crc.restore <v>`. -/
  | crcRestore (v : Word)
  /-- `sl.open <w>, <ct>, <bd>, <dir>`. -/
  | slOpen (w : Word) (ct bd : Byte) (dir : Direction)
  /-- `sl.bytes <b0>, ..., <bm>`. -/
  | slBytes (bs : List Byte)
  /-- `sl.pix <x>`. -/
  | slPix (x : Word)
  /-- `unfilt.v <ft>, <x>, <a>, <b>, <c>`. -/
  | unfiltV (ft x a b c : Byte)
  deriving DecidableEq, Repr

/-- The groups of up to 4 bytes, in order (R69). -/
def byteGroups : List Byte → List (List Byte)
  | b0 :: b1 :: b2 :: b3 :: bs => [b0, b1, b2, b3] :: byteGroups bs
  | [] => []
  | bs => [bs]

/-- The expansion of a pseudo-instruction (R69). The bytes of `ARG` above a short last group are 0 (assumption log 21). -/
def Pseudo.expand : Pseudo → List AsmLine
  | .crcW32 v => [.arg v, .cmd (.crcWord 4)]
  | .crcBytes bs => (byteGroups bs).flatMap (fun g => [.arg (packBytes g), .cmd (.crcWord g.length)])
  | .crcVerify v => [.arg v, .cmd .crcChk]
  | .crcRestore v => [.arg v, .cmd .crcLoad]
  | .slOpen w ct bd dir => [.arg w, .cmd (.slBegin ct bd dir)]
  | .slBytes bs => (byteGroups bs).flatMap (fun g => [.arg (packBytes g), .cmd (.slPushw g.length)])
  | .slPix x => [.arg (4 * x), .cmd (.slReadw 4)]
  | .unfiltV ft x a b c => [.arg (c ++ b ++ a ++ x), .cmd (.unfilt ft)]

/-- The host actions of a list of lines, in program order (R53, R68). -/
def asmEvents (lines : List AsmLine) : List BusEvent := lines.map AsmLine.event

/-- A blank of a line. -/
def isBlank (c : Char) : Bool := c == ' ' || c == '\t'

/-- A text without the blanks at its two ends. -/
def trimBlanks (cs : List Char) : List Char := ((cs.dropWhile isBlank).reverse.dropWhile isBlank).reverse

/-- A line without its comment, which starts with a semicolon (R68). -/
def dropComment (cs : List Char) : List Char := cs.takeWhile (fun c => c != ';')

/-- The parts of a text between its commas. -/
def splitCommas : List Char → List (List Char)
  | [] => [[]]
  | c :: cs =>
    if c == ',' then [] :: splitCommas cs
    else
      match splitCommas cs with
      | [] => [[c]]
      | f :: fs => (c :: f) :: fs

/-- The operands of a line: none, or the parts between its commas. -/
def operandTexts (cs : List Char) : List (List Char) :=
  if (trimBlanks cs).isEmpty then [] else (splitCommas cs).map trimBlanks

/-- The value of a digit, decimal or hexadecimal. -/
def digitValue (c : Char) : Option Nat :=
  if '0' ≤ c ∧ c ≤ '9' then some (c.toNat - '0'.toNat)
  else if 'a' ≤ c ∧ c ≤ 'f' then some (c.toNat - 'a'.toNat + 10)
  else if 'A' ≤ c ∧ c ≤ 'F' then some (c.toNat - 'A'.toNat + 10)
  else none

/-- The number that digits stand for in a base, after those already read. -/
def digitsValue (base : Nat) : Nat → List Char → Option Nat
  | acc, [] => some acc
  | acc, c :: cs =>
    match digitValue c with
    | some d => if d < base then digitsValue base (acc * base + d) cs else none
    | none => none

/-- A number, decimal or `0x` hexadecimal (R68). -/
def numberText : List Char → Option Nat
  | [] => none
  | '0' :: 'x' :: d :: ds => digitsValue 16 0 (d :: ds)
  | d :: ds => digitsValue 10 0 (d :: ds)

/-- `<u32>` (R68). -/
def u32Text (cs : List Char) : Option Word := (numberText cs).bind (fun n => if n < 2 ^ 32 then some (BitVec.ofNat 32 n) else none)

/-- `<u8>` (R68). -/
def u8Text (cs : List Char) : Option Byte := (numberText cs).bind (fun n => if n < 2 ^ 8 then some (BitVec.ofNat 8 n) else none)

/-- `<n>` in 1..4 (R68). -/
def countText (cs : List Char) : Option Nat := (numberText cs).bind (fun n => if wellFormedCount n then some n else none)

/-- `dec` or `enc` (R68). -/
def directionText (cs : List Char) : Option Direction :=
  if cs = "dec".toList then some .decode else if cs = "enc".toList then some .encode else none

/-- The name of a register (R17). -/
def Reg.name : Reg → String
  | .id => "ID"
  | .cap => "CAP"
  | .cmd => "CMD"
  | .arg => "ARG"
  | .result => "RESULT"
  | .status => "STATUS"
  | .errinfo => "ERRINFO"
  | .errrow => "ERRROW"
  | .crcState => "CRC_STATE"
  | .crcResult => "CRC_RESULT"
  | .slWidth => "SL_WIDTH"
  | .slRow => "SL_ROW"
  | .slCol => "SL_COL"

/-- `<REG>` (R68). -/
def regText (cs : List Char) : Option Reg := Reg.all.find? (fun r => r.name.toList == cs)

/-- The lines of R68 with no operand. -/
def lineText0 (m : List Char) : Option Instr :=
  if m = "nop".toList then some .nop
  else if m = "clrerr".toList then some .clrerr
  else if m = "sreset".toList then some .sreset
  else if m = "crc.init".toList then some .crcInit
  else if m = "crc.load".toList then some .crcLoad
  else if m = "crc.chk".toList then some .crcChk
  else if m = "sl.end".toList then some .slEnd
  else none

/-- The lines of R68 and R69 with one operand, `crc.bytes` and `sl.bytes` apart. -/
def lineText1 (m x : List Char) : Option (List AsmLine) :=
  if m = "arg".toList then (u32Text x).map (fun v => [.arg v])
  else if m = "rd".toList then (regText x).map (fun r => [.rd r])
  else if m = "crc.byte".toList then (u8Text x).map (fun v => [.cmd (.crcByte v)])
  else if m = "crc.tab".toList then (u8Text x).map (fun v => [.cmd (.crcTab v)])
  else if m = "sl.push".toList then (u8Text x).map (fun v => [.cmd (.slPush v)])
  else if m = "crc.word".toList then (countText x).map (fun n => [.cmd (.crcWord n)])
  else if m = "sl.pushw".toList then (countText x).map (fun n => [.cmd (.slPushw n)])
  else if m = "sl.readw".toList then (countText x).map (fun n => [.cmd (.slReadw n)])
  else if m = "unfilt".toList then (u8Text x).map (fun v => [.cmd (.unfilt v)])
  else if m = "crc.w32".toList then (u32Text x).map (fun v => (Pseudo.crcW32 v).expand)
  else if m = "crc.verify".toList then (u32Text x).map (fun v => (Pseudo.crcVerify v).expand)
  else if m = "crc.restore".toList then (u32Text x).map (fun v => (Pseudo.crcRestore v).expand)
  else if m = "sl.pix".toList then (u32Text x).map (fun v => (Pseudo.slPix v).expand)
  else none

/-- The lines of R68 and R69 with three or more operands of fixed number. -/
def lineTextN (m : List Char) : List (List Char) → Option (List AsmLine)
  | [x, y, z] =>
    if m = "sl.begin".toList then
      (u8Text x).bind fun ct => (u8Text y).bind fun bd => (directionText z).map fun d => [.cmd (.slBegin ct bd d)]
    else if m = "paeth".toList then
      (u8Text x).bind fun a => (u8Text y).bind fun b => (u8Text z).map fun c => [.cmd (.paeth a b c)]
    else none
  | [w, x, y, z] =>
    if m = "sl.open".toList then
      (u32Text w).bind fun v => (u8Text x).bind fun ct => (u8Text y).bind fun bd =>
        (directionText z).map fun d => (Pseudo.slOpen v ct bd d).expand
    else none
  | [f, x, a, b, c] =>
    if m = "unfilt.v".toList then
      (u8Text f).bind fun f => (u8Text x).bind fun x => (u8Text a).bind fun a => (u8Text b).bind fun b =>
        (u8Text c).map fun c => (Pseudo.unfiltV f x a b c).expand
    else none
  | _ => none

/-- Texts that are all `<u8>`. -/
def bytesText : List (List Char) → Option (List Byte)
  | [] => some []
  | x :: xs =>
    match u8Text x, bytesText xs with
    | some b, some bs => some (b :: bs)
    | _, _ => none

/-- The host actions of one line of text: none for what is no line of R68 or R69, no action for a blank line or a comment. Mnemonics are
case-insensitive (R68). Assumption log 18. -/
def lineText (text : String) : Option (List AsmLine) :=
  let cs := trimBlanks (dropComment text.toList)
  let m := (cs.takeWhile (fun c => !isBlank c)).map Char.toLower
  let xs := operandTexts (cs.dropWhile (fun c => !isBlank c))
  if m.isEmpty then some []
  else if m = "crc.bytes".toList then
    (bytesText xs).bind fun bs => if bs.isEmpty then none else some (Pseudo.crcBytes bs).expand
  else if m = "sl.bytes".toList then
    (bytesText xs).bind fun bs => if bs.isEmpty then none else some (Pseudo.slBytes bs).expand
  else
    match xs with
    | [] => (lineText0 m).map (fun i => [.cmd i])
    | [x] => lineText1 m x
    | _ => lineTextN m xs

end Sys2Proof.Machine
end

