-- ==== Sys2Proof/Safety.lean ====
section
/-! DEFINITION. What claims are stated with: the invariant of spec/10_state.md R34, safe states, runs of commands and of events, and the
row functions of spec/43_scanline.md section 1. -/

namespace Sys2Proof

open Sys2Proof.Machine

/-- The invariant: R34 item by item, what R28, R30 and R32 say of the session registers and of the line buffers, and the bounds of
`LINE_MAX` (R6). -/
structure Inv (s : State) : Prop where
  /-- R6. -/
  lineMax_pos : 1 ≤ s.lineMax
  /-- R6. -/
  lineMax_le : s.lineMax ≤ 2 ^ 28
  /-- R34 item 1, first part. -/
  err_iff : s.status.err = false ↔ s.errInfo.code = .none
  /-- R34 item 1, second part. -/
  clear_record : s.status.err = false → s.errInfo.toWord = 0 ∧ s.errRow = 0
  /-- R34 item 3. -/
  before_session : s.status.bpp = .unset →
    s.slWidth = 0 ∧ s.status.slActive = false ∧ s.status.hasRow = false ∧ s.status.dir = .decode
  /-- R28. -/
  width_range : s.status.bpp ≠ .unset → 1 ≤ s.slWidth.toNat ∧ s.slWidth.toNat ≤ s.lineMax
  /-- R34 item 4. -/
  encode_bpp : s.status.dir = .encode → s.status.bpp = .rgba
  /-- R34 item 5, decode. -/
  col_decode : s.status.dir = .decode → s.slCol.toNat ≤ s.rowlen
  /-- R34 item 5, encode. -/
  col_encode : s.status.dir = .encode → s.slCol.toNat < s.rowlen
  /-- R34 item 6. -/
  encode_ftype : s.status.dir = .encode → s.status.ftype = .none
  /-- R34 item 7. -/
  rows : s.slRow ≠ 0 → s.status.hasRow = true
  /-- A session is closed only between rows (R110, R120). -/
  closed_col : s.status.slActive = false → s.slCol = 0
  /-- The storage of `PREV` is in its canonical form. -/
  prev_wf : s.prev.wf
  /-- The storage of `CUR` is in its canonical form. -/
  cur_wf : s.cur.wf
  /-- `PREV` has no byte past its end (R32). -/
  prev_range : ∀ cell ∈ s.prev, cell.1 < s.capacity
  /-- `CUR` has no byte past its end (R32). -/
  cur_range : ∀ cell ∈ s.cur, cell.1 < s.capacity
  /-- A completed row has been written (R32). -/
  prev_written : s.status.hasRow = true → ∀ i, i < s.rowlen → (s.prev.stored i).isSome = true
  /-- In decode the samples before the next one have been written (R30, R32). -/
  cur_decode : s.status.dir = .decode → ∀ i, i + 1 < s.slCol.toNat → (s.cur.stored i).isSome = true
  /-- In encode the raster bytes before the next one have been written (R30, R32). -/
  cur_encode : s.status.dir = .encode → ∀ i, i < s.slCol.toNat → (s.cur.stored i).isSome = true

/-- A state is safe if its step does not stop the machine. -/
def Safe (s : State) : Prop := ∃ t, step s = .next t

/-- The states a run can reach: right after reset with any events on their way, for any `LINE_MAX` of R6, then step by step. -/
inductive Reachable : State → Prop where
  | start (lineMax : Nat) (low : 1 ≤ lineMax) (high : lineMax ≤ 2 ^ 28) (es : List BusEvent) :
      Reachable ({ State.reset with lineMax := lineMax }.setInbox es)
  | step {s t : State} (before : Reachable s) (h : Machine.step s = .next t) : Reachable t

/-- The commands one after another, stopping where the machine stops. -/
def execAll : List Instr → State → Result
  | [], s => .next s
  | i :: is, s =>
    match exec i s with
    | .next t => execAll is t
    | .fault f => .fault f
    | .refused r => .refused r

/-- The events one after another, stopping where the machine stops. -/
def deliverAll : List BusEvent → State → Result
  | [], s => .next s
  | e :: es, s =>
    match deliver e s with
    | .next t => deliverAll es t
    | .fault f => .fault f
    | .refused r => .refused r

/-- One way to feed bytes to the CRC: a `CRC.BYTE`, or an `ARG` write and a `CRC.WORD` (R84). -/
inductive CrcFeed where
  | byte (v : Byte)
  | word (bs : List Byte)

/-- The bytes of a feed. -/
def CrcFeed.bytes : CrcFeed → List Byte
  | .byte v => [v]
  | .word bs => bs

/-- The lines of a feed. The bytes of `ARG` above a short group are 0, as in `crc.bytes` (assumption log 21). -/
def CrcFeed.lines : CrcFeed → List AsmLine
  | .byte v => [.cmd (.crcByte v)]
  | .word bs => [.arg (packBytes bs), .cmd (.crcWord bs.length)]

/-- A `CRC.WORD` takes 1 to 4 bytes (R61). -/
def CrcFeed.ok : CrcFeed → Prop
  | .byte _ => True
  | .word bs => 1 ≤ bs.length ∧ bs.length ≤ 4

/-- The bits that the format of an opcode marks "0" (R58 to R62). -/
def reservedBits (opc : Byte) : Word :=
  if opc ∈ [0x00#8, 0x01#8, 0x02#8, 0x10#8, 0x13#8, 0x14#8, 0x24#8] then 0x00FFFFFF
  else if opc ∈ [0x11#8, 0x15#8, 0x21#8, 0x31#8] then 0x00FFFF00
  else if opc ∈ [0x12#8, 0x22#8, 0x23#8] then 0x00FFFFFC
  else if opc = 0x20#8 then 0x00FE0000
  else 0

/-- The opcodes R65 lists as reserved. -/
def reservedOpcode (opc : Byte) : Prop :=
  (0x03 ≤ opc.toNat ∧ opc.toNat ≤ 0x0F) ∨ (0x16 ≤ opc.toNat ∧ opc.toNat ≤ 0x1F)
    ∨ (0x25 ≤ opc.toNat ∧ opc.toNat ≤ 0x2F) ∨ (0x32 ≤ opc.toNat ∧ opc.toNat ≤ 0xFF)

/-- What each rule of a command says under "Operands", "Encoding" and "Errors" (R85 to R120), for a command other than `NOP`, `CLRERR` and
`SRESET`: a word of its opcode with its format's "0" bits at 0 is the command with those operands; every such word is discarded
while an error is recorded; otherwise one with a "0" bit set raises `E_ILLEGAL`. -/
def CommandWords (opc : Byte) (zeros : Word) (operands : Word → Instr) : Prop :=
  ∀ w : Word, w.extractLsb' 24 8 = opc →
    (w &&& zeros = 0 → decode w = .command (operands w)) ∧
    ∀ s : State,
      (s.status.err = true → execute w s = .next s) ∧
      (s.status.err = false → w &&& zeros ≠ 0 → execute w s = .next { s with
        status := { s.status with err := true }
        errInfo := { code := .illegal, d0 := 0, d1 := 0, opc := opc }
        errRow := 0 })

/-- A row reconstructed sample by sample as the source defines it (R104), apart from any line buffer: `done` holds the reconstructed bytes
so far, `above` the previous row (none in the first row). -/
def reconRow (ft : FilterType) (bpp : Nat) (above : Option (List Byte)) : List Byte → List Byte → List Byte
  | done, [] => done
  | done, x :: xs =>
    let i := done.length
    let a := if bpp ≤ i then done.getD (i - bpp) 0 else 0
    let b := match above with
      | some row => row.getD i 0
      | none => 0
    let c := match above with
      | some row => if bpp ≤ i then row.getD (i - bpp) 0 else 0
      | none => 0
    reconRow ft bpp above (done ++ [recon ft x a b c]) xs

/-- The bytes `PREV[0], ..., PREV[len - 1]`. -/
def rowBytes (s : State) (len : Nat) : List Byte := (List.range len).map (fun i => s.lineByte .prev i)

/-- The previous row as the neighbour rule sees it: none before a row has completed (R33). -/
def rowAbove (s : State) : Option (List Byte) := if s.status.hasRow then some (rowBytes s s.rowlen) else none

/-- A row of pixels expanded to RGBA: 3-byte pixels get alpha 255 (R112). -/
def expandRgb : List Byte → List Byte
  | r :: g :: b :: rest => r :: g :: b :: 255 :: expandRgb rest
  | _ => []

/-- The index of `CUR` that the next pushed byte is stored at; none for a filter-type byte (R30, R111, R114). -/
def pushTarget (s : State) : Option Nat :=
  match s.status.dir with
  | .decode => if s.slCol = 0 then none else some (s.slCol.toNat - 1)
  | .encode => some s.slCol.toNat

/-- The indexes of `CUR` that pushing bytes stores at, each in the state the bytes before it left. -/
def pushTargets (opc : Byte) : List Byte → State → List Nat
  | [], _ => []
  | v :: vs, s =>
    (pushTarget s).toList ++
      (match pushByte opc v s with
      | .taken t => pushTargets opc vs t
      | .failed _ => []
      | .stopped _ => [])

/-- What the platform owns, and `LINE_MAX`, are as before. -/
def SamePlatform (s t : State) : Prop :=
  t.lineMax = s.lineMax ∧ t.inReset = s.inReset ∧ t.inbox = s.inbox ∧ t.responses = s.responses

/-- Every byte of both line buffers reads as before. -/
def SameLineBytes (s t : State) : Prop := ∀ b i, t.lineByte b i = s.lineByte b i

end Sys2Proof
end

