-- ==== Sys2Proof/Certificates/Slice0/Obligations.lean ====
section
/-! DEFINITION. The statements for the provers. Each docstring names the rules of spec/ it formalises. -/

open Sys2Proof Sys2Proof.Machine

/-! ### Encoding -/

/-- Words written out bit by bit from the formats of R58 to R62, one or more per family, decode to the command they stand for; two words
are illegal (30_encoding.md section 4, R65 and R67). Which of its two names an illegal word has, `reservedBitSet` or
`reservedOpcode`, is the model's choice, log entry 16: the spec has the one answer `ILLEGAL`. -/
def Obligations.SpecWordsDecodeToTheirCommands : Prop :=
  decode 0b00000000_000000000000000000000000#32 = .command .nop ∧
  decode 0b00000001_000000000000000000000000#32 = .command .clrerr ∧
  decode 0b00010001_0000000000000000_00110001#32 = .command (.crcByte 0x31) ∧
  decode 0b00010010_0000000000000000000000_11#32 = .command (.crcWord 4) ∧
  decode 0b00100000_0000000_1_00001000_00000110#32 = .command (.slBegin 6 8 .encode) ∧
  decode 0b00100011_0000000000000000000000_00#32 = .command (.slReadw 1) ∧
  decode 0b00110000_00001111_00010100_00001010#32 = .command (.paeth 10 20 15) ∧
  decode 0b00110001_0000000000000000_11111111#32 = .command (.unfilt 255) ∧
  decode 0b00110001_0000000000000001_00000100#32 = .illegal .reservedBitSet ∧
  decode 0b01111111_000000000000000000000000#32 = .illegal .reservedOpcode

/-- R58 to R62 against R67: the encoder drops no bit of a command and the decoder reads each field where it was put. -/
def Obligations.DecodeOfEncodeIsTheCommand : Prop :=
  ∀ i : Instr, i.wellFormed = true → decode (encode i) = .command i

/-- Every legal word has one command and is that command's word; what decodes is well formed. -/
def Obligations.EncodeOfDecodeIsTheWord : Prop :=
  ∀ (w : Word) (i : Instr), decode w = .command i → i.wellFormed = true ∧ encode i = w

/-- R64: the map, row by row; a word selects the row it matches and decodes to a command of that row's mnemonic; at most one row matches
any word; a word that no row matches is illegal. -/
def Obligations.OpcodeMapSelectsAtMostOneRow : Prop :=
  opcodeMap.map (fun r => (r.mnemonic, r.pattern, r.mask)) =
    [("NOP", 0x00000000#32, 0xFFFFFFFF#32), ("CLRERR", 0x01000000#32, 0xFFFFFFFF#32),
     ("SRESET", 0x02000000#32, 0xFFFFFFFF#32), ("CRC.INIT", 0x10000000#32, 0xFFFFFFFF#32),
     ("CRC.BYTE", 0x11000000#32, 0xFFFFFF00#32), ("CRC.WORD", 0x12000000#32, 0xFFFFFFFC#32),
     ("CRC.LOAD", 0x13000000#32, 0xFFFFFFFF#32), ("CRC.CHK", 0x14000000#32, 0xFFFFFFFF#32),
     ("CRC.TAB", 0x15000000#32, 0xFFFFFF00#32), ("SL.BEGIN", 0x20000000#32, 0xFFFE0000#32),
     ("SL.PUSH", 0x21000000#32, 0xFFFFFF00#32), ("SL.PUSHW", 0x22000000#32, 0xFFFFFFFC#32),
     ("SL.READW", 0x23000000#32, 0xFFFFFFFC#32), ("SL.END", 0x24000000#32, 0xFFFFFFFF#32),
     ("PAETH", 0x30000000#32, 0xFF000000#32), ("UNFILT", 0x31000000#32, 0xFFFFFF00#32)] ∧
  (∀ (w : Word) (r r' : OpRow), r ∈ opcodeMap → r' ∈ opcodeMap →
    w &&& r.mask = r.pattern → w &&& r'.mask = r'.pattern → r = r') ∧
  (∀ (w : Word) (r : OpRow), r ∈ opcodeMap → w &&& r.mask = r.pattern →
    ∃ i, decode w = .command i ∧ i.mnemonic = r.mnemonic) ∧
  (∀ w : Word, (∀ r ∈ opcodeMap, w &&& r.mask ≠ r.pattern) → ∃ y, decode w = .illegal y)

/-- R65, whole: which words are illegal, and what an illegal word does with and without a recorded error. -/
def Obligations.IllegalWordsRaiseIllegalOrAreDiscarded : Prop :=
  (∀ w : Word, (∃ y, decode w = .illegal y) ↔
    (reservedOpcode (opcodeByte w) ∨ w &&& reservedBits (opcodeByte w) ≠ 0)) ∧
  (∀ (w : Word) (s : State), (∃ y, decode w = .illegal y) → s.status.err = false →
    execute w s = .next { s with
      status := { s.status with err := true }
      errInfo := { code := .illegal, d0 := 0, d1 := 0, opc := w.extractLsb' 24 8 }
      errRow := 0 }) ∧
  (∀ (w : Word) (s : State), s.status.err = true → w ≠ 0x00000000 → w ≠ 0x01000000 → w ≠ 0x02000000 →
    execute w s = .next s)

/-! ### Execution, the bus and reset -/

/-- R131, whole: while `STATUS.ERR = 1` exactly three words are executed, every other is discarded; `ARG` writes and reads go on. -/
def Obligations.CommandsAreDiscardedWhileAnErrorStands : Prop :=
  ∀ s : State, s.status.err = true →
    execute 0x00000000 s = .next s ∧
    execute 0x01000000 s = .next { s with
      status := { s.status with err := false }, errInfo := { code := .none, d0 := 0, d1 := 0, opc := 0 }, errRow := 0 } ∧
    execute 0x02000000 s = .next (resetBlock s) ∧
    (∀ w : Word, w ≠ 0x00000000 → w ≠ 0x01000000 → w ≠ 0x02000000 → execute w s = .next s) ∧
    (∀ v : Word, busWrite 32 0x0C v s = .next { s with arg := v }) ∧
    (∀ (width : Nat) (off : BitVec 8), busRead width off s =
      if width = 32 ∧ off.toNat % 4 = 0 then
        (match Reg.atOffset off with
        | some r => (readReg s r, .okay)
        | none => (0, .okay))
      else (0, .error))

/-- The step runs the decoded command: when the next event at the port is a 32-bit write of `w` to `CMD` and the block is out of
reset, the step is `exec` of the command `w` decodes to, and the host is answered `OKAY`; with nothing waiting a step changes
nothing (the model's choice, log entry 1). -/
def Obligations.StepRunsTheDecodedCommand : Prop :=
  (∀ (s : State) (rest : List BusEvent) (w : Word) (i : Instr), s.inReset = false →
    s.inbox = .write 32 0x08 w :: rest → decode w = .command i →
    step s =
      match exec i { s with inbox := rest } with
      | .next t => .next { t with responses := .writeDone .okay :: t.responses }
      | .fault f => .fault f
      | .refused r => .refused r) ∧
  (∀ s : State, s.inbox = [] → step s = .next s)

/-- R45: what a read of each mapped offset returns, of an unmapped one, and of one that is refused; and a read that reaches a block out of
reset answers that and changes nothing else. -/
def Obligations.EveryRegisterReadsAtItsOffset : Prop :=
  ∀ s : State,
    busRead 32 0x00 s = (0x504E4731, .okay) ∧
    busRead 32 0x04 s = (BitVec.ofNat 32 s.lineMax, .okay) ∧
    busRead 32 0x08 s = (0, .okay) ∧
    busRead 32 0x0C s = (s.arg, .okay) ∧
    busRead 32 0x10 s = (s.result, .okay) ∧
    busRead 32 0x14 s = (s.status.toWord, .okay) ∧
    busRead 32 0x18 s = (s.errInfo.toWord, .okay) ∧
    busRead 32 0x1C s = (s.errRow, .okay) ∧
    busRead 32 0x20 s = (s.crcState, .okay) ∧
    busRead 32 0x24 s = (s.crcState ^^^ 0xFFFFFFFF, .okay) ∧
    busRead 32 0x28 s = (s.slWidth, .okay) ∧
    busRead 32 0x2C s = (s.slRow, .okay) ∧
    busRead 32 0x30 s = (s.slCol, .okay) ∧
    (∀ off : BitVec 8, off.toNat % 4 = 0 → 0x34 ≤ off.toNat → busRead 32 off s = (0, .okay)) ∧
    (∀ (width : Nat) (off : BitVec 8), (width ≠ 32 ∨ off.toNat % 4 ≠ 0) → busRead width off s = (0, .error)) ∧
    (∀ (width : Nat) (off : BitVec 8), s.inReset = false → deliver (.read width off) s =
      .next { s with responses := .readDone (busRead width off s).1 (busRead width off s).2 :: s.responses })

/-- R46: a write that reaches a block out of reset: refused with `ERROR` if misaligned or of another width; at `CMD` it executes the word and
is answered once the whole effect is in place; at `ARG` it stores the data; anywhere else it has no effect and is answered `OKAY`. -/
def Obligations.WritesActAtCmdAndArgOnly : Prop :=
  ∀ (s : State) (width : Nat) (off : BitVec 8) (data : Word), s.inReset = false →
    deliver (.write width off data) s =
      if width ≠ 32 ∨ off.toNat % 4 ≠ 0 then .next { s with responses := .writeDone .error :: s.responses }
      else if off = 0x08 then
        match execute data s with
        | .next t => .next { t with responses := .writeDone .okay :: t.responses }
        | .fault f => .fault f
        | .refused r => .refused r
      else if off = 0x0C then .next { s with arg := data, responses := .writeDone .okay :: s.responses }
      else .next { s with responses := .writeDone .okay :: s.responses }

/-- R47: an access of another width, or at an offset that is no multiple of 4, answers `ERROR`, returns 0 and changes nothing of the
block; a step that delivers it only takes it from the port and records the answer. -/
def Obligations.RejectedAccessesChangeNothing : Prop :=
  ∀ (s : State) (rest : List BusEvent) (width : Nat) (off : BitVec 8) (data : Word),
    (width ≠ 32 ∨ off.toNat % 4 ≠ 0) → s.inReset = false →
    (s.inbox = .read width off :: rest →
      step s = .next { s with inbox := rest, responses := .readDone 0 .error :: s.responses }) ∧
    (s.inbox = .write width off data :: rest →
      step s = .next { s with inbox := rest, responses := .writeDone .error :: s.responses })

/-- R49: a read has no side effect, so reading twice gives the same value twice. -/
def Obligations.ReadsHaveNoSideEffect : Prop :=
  ∀ (s : State) (rest : List BusEvent) (w w' : Nat) (off off' : BitVec 8), s.inReset = false →
    s.inbox = .read w off :: .read w' off' :: rest →
    ∃ t u, step s = .next t ∧ step t = .next u ∧
      t = { s with inbox := .read w' off' :: rest
                   responses := .readDone (busRead w off s).1 (busRead w off s).2 :: s.responses } ∧
      u = { s with inbox := rest
                   responses := .readDone (busRead w' off' s).1 (busRead w' off' s).2 ::
                     .readDone (busRead w off s).1 (busRead w off s).2 :: s.responses }

/-- The bits of `STATUS` as R21 lays them out and the bytes of `ERRINFO` as R22 and R129 do, for every value of their fields: each field
in its place, reserved bits 0; the number of each filter type (R92) and of each error code (R127), as a host reads them. -/
def Obligations.StatusAndErrinfoFieldsStandWhereTheMapSays : Prop :=
  (∀ st : Status,
    st.toWord.getLsbD 0 = st.err ∧
    st.toWord.getLsbD 1 = st.crcMatch ∧
    st.toWord.getLsbD 2 = st.slActive ∧
    st.toWord.getLsbD 3 = decide (st.dir = .encode) ∧
    st.toWord.getLsbD 4 = st.hasRow ∧
    st.toWord.extractLsb' 5 3 = 0 ∧
    (st.toWord.extractLsb' 8 3).toNat = st.bpp.toNat ∧
    st.toWord.extractLsb' 11 5 = 0 ∧
    st.toWord.extractLsb' 16 8 = st.ftype.toByte ∧
    st.toWord.extractLsb' 24 8 = 0) ∧
  (∀ e : ErrInfo,
    e.toWord.extractLsb' 0 8 = e.code.toByte ∧ e.toWord.extractLsb' 8 8 = e.d0 ∧
    e.toWord.extractLsb' 16 8 = e.d1 ∧ e.toWord.extractLsb' 24 8 = e.opc ∧
    e.code.toByte.toNat ≤ 7 ∧ (e.code.toByte = 0 ↔ e.code = .none)) ∧
  (∀ st : Status, st.toWord.extractLsb' 16 8 =
    match st.ftype with
    | .none => 0#8
    | .sub => 1#8
    | .up => 2#8
    | .average => 3#8
    | .paeth => 4#8) ∧
  (∀ e : ErrInfo, e.toWord.extractLsb' 0 8 =
    match e.code with
    | .none => 0x00#8
    | .filter => 0x01#8
    | .unsupported => 0x02#8
    | .illegal => 0x03#8
    | .state => 0x04#8
    | .width => 0x05#8
    | .index => 0x06#8
    | .partialRow => 0x07#8)

/-- R37: the values right after reset, read through the window, and the parts no register shows: no byte of a line buffer written, the
reset input released. That nothing waits at the port is the model's choice, log entry 1. `prev = []` and `cur = []` are the form it gives
the unspecified line buffers: its choice, log entry 5. -/
def Obligations.ResetStateHoldsTheResetValues : Prop :=
  let s := State.reset
  s.arg = 0 ∧ s.result = 0 ∧ s.status.toWord = 0 ∧ s.errInfo.toWord = 0 ∧ s.errRow = 0 ∧ s.crcState = 0xFFFFFFFF ∧
  s.slWidth = 0 ∧ s.slRow = 0 ∧ s.slCol = 0 ∧ busRead 32 0x24 s = (0, .okay) ∧ busRead 32 0x00 s = (0x504E4731, .okay) ∧
  s.inReset = false ∧ s.prev = [] ∧ s.cur = [] ∧ s.inbox = [] ∧ 1 ≤ s.lineMax ∧ s.lineMax ≤ 2 ^ 28

/-- R140: while the reset input is asserted an access has no effect on the block; when the input is released every piece of the block's
state has its reset value, exactly as after `SRESET`. The data and response of such an access are free values, and that asserting
the input changes nothing else of the state, and a release of an input that is not asserted nothing at all, is the model's choice:
log entry 7. `prev = []` and `cur = []` are the form the model gives the unspecified line buffers (R37): its choice, log entry 5. -/
def Obligations.ResetInputAndSresetGiveResetValues : Prop :=
  (∀ (s : State) (e : BusEvent), s.inReset = true → (∀ b, e ≠ .resetLine b) →
    ∃ r, deliver e s = .next { s with responses := r :: s.responses }) ∧
  (∀ s : State, s.inReset = true → ∃ t, deliver (.resetLine false) s = .next t ∧
    t.inReset = false ∧ exec .sreset { s with inReset := false } = .next t ∧
    t.arg = 0 ∧ t.result = 0 ∧ t.status = State.reset.status ∧ t.errInfo = State.reset.errInfo ∧ t.errRow = 0 ∧
    t.crcState = 0xFFFFFFFF ∧ t.slWidth = 0 ∧ t.slRow = 0 ∧ t.slCol = 0 ∧ t.prev = [] ∧ t.cur = [] ∧
    t.lineMax = s.lineMax ∧ t.inbox = s.inbox ∧ t.responses = s.responses) ∧
  (∀ s : State, deliver (.resetLine true) s = .next { s with inReset := true }) ∧
  (∀ s : State, s.inReset = false → deliver (.resetLine false) s = .next s)

/-- R41: a host access reaches the port exactly when its address lies in the 256 bytes from `BASE`, at the offset it has there, and is
aligned there exactly when its address is. -/
def Obligations.WindowLiesAtBase : Prop :=
  Config.base % 4 = 0 ∧
  (∀ off : BitVec 8, windowOffset Config.base (Config.base + off.toNat) = some off) ∧
  (∀ (addr : Nat) (off : BitVec 8), windowOffset Config.base addr = some off →
    addr = Config.base + off.toNat ∧ off.toNat % 4 = addr % 4) ∧
  (∀ addr : Nat, windowOffset Config.base addr = none ↔ (addr < Config.base ∨ Config.base + 256 ≤ addr))

/-! ### Control commands -/

/-- R71: `NOP` leaves any state as it is, an error recorded or not; its only legal word is `0x00000000`. -/
def Obligations.NopLeavesTheStateUnchanged : Prop :=
  ∀ s : State, exec .nop s = .next s ∧ execute 0x00000000 s = .next s ∧
    ∀ w : Word, w.extractLsb' 24 8 = 0x00#8 →
      (decode w = .command .nop ↔ w = 0x00000000) ∧
      (w ≠ 0x00000000 → s.status.err = false → execute w s = .next { s with
        status := { s.status with err := true }
        errInfo := { code := .illegal, d0 := 0, d1 := 0, opc := 0x00 }
        errRow := 0 })

/-- R72: `CLRERR`, the word `0x01000000`: `ERR`, `ERRINFO`, `ERRROW` to 0, no other field, in any state; with no error recorded (in a state
with the invariant of R34) it changes nothing. -/
def Obligations.ClrerrClearsTheErrorRecord : Prop :=
  decode 0x01000000 = .command .clrerr ∧
  ∀ s : State,
    exec .clrerr s = .next { s with
      status := { s.status with err := false }, errInfo := { code := .none, d0 := 0, d1 := 0, opc := 0 }, errRow := 0 } ∧
    execute 0x01000000 s = exec .clrerr s ∧
    (Inv s → s.status.err = false → exec .clrerr s = .next s)

/-- R73: every register and field to its reset value, in any state, whatever error is recorded; nothing outside the block changes.
`prev = []` and `cur = []` are the form the model gives the unspecified line buffers (R37): its choice, log entry 5. -/
def Obligations.SresetGivesEveryRegisterItsResetValue : Prop :=
  ∀ s : State, ∃ t, exec .sreset s = .next t ∧
    (∀ r : Reg, r ≠ .cap → readReg t r = readReg State.reset r) ∧ readReg t .cap = readReg s .cap ∧
    t.prev = [] ∧ t.cur = [] ∧ SamePlatform s t

/-! ### CRC commands -/

/-- R85 and R88, with their words and errors: `CRC.INIT` and `CRC.LOAD` set the running register and nothing else. -/
def Obligations.CrcInitAndLoadSetTheRegister : Prop :=
  CommandWords 0x10 0x00FFFFFF (fun _ => .crcInit) ∧ CommandWords 0x13 0x00FFFFFF (fun _ => .crcLoad) ∧
  ∀ s : State, s.status.err = false →
    exec .crcInit s = .next { s with crcState := 0xFFFFFFFF } ∧
    exec .crcLoad s = .next { s with crcState := s.arg }

/-- `CRC.BYTE` is one table step (41_crc.md section 2 and section 3). The table's construction and the step are the spec's "[from general
knowledge, not in source]" (log entry 13). -/
def Obligations.CrcByteIsOneTableStep : Prop :=
  CommandWords 0x11 0x00FFFF00 (fun w => .crcByte (w.extractLsb' 0 8)) ∧
  ∀ (s : State) (v : Byte), s.status.err = false →
    exec (.crcByte v) s =
      .next { s with crcState := crcTable ((s.crcState ^^^ v.setWidth 32).extractLsb' 0 8) ^^^ (s.crcState >>> 8) }

/-- `CRC.WORD` takes bytes 0 to n-1 of `ARG` in order, and equals as many `CRC.BYTE` commands; the bytes above are ignored (41_crc.md
section 3). The byte step is the spec's "[from general knowledge, not in source]" (log entry 13). -/
def Obligations.CrcWordIsItsBytesInOrder : Prop :=
  CommandWords 0x12 0x00FFFFFC (fun w => .crcWord ((w.extractLsb' 0 2).toNat + 1)) ∧
  ∀ (s : State) (n : Nat), s.status.err = false → 1 ≤ n → n ≤ 4 →
    exec (.crcWord n) s = execAll ((List.range n).map (fun k => .crcByte (s.arg.extractLsb' (8 * k) 8))) s ∧
    exec (.crcWord n) s = .next { s with
      crcState := (List.range n).foldl (fun c k => crcUpdate c (s.arg.extractLsb' (8 * k) 8)) s.crcState }

/-- R89, with its words and errors: the flag is the comparison; a mismatch is no error; nothing else changes. -/
def Obligations.CrcChkComparesTheChecksum : Prop :=
  CommandWords 0x14 0x00FFFFFF (fun _ => .crcChk) ∧
  ∀ s : State, s.status.err = false →
    exec .crcChk s = .next { s with
      status := { s.status with crcMatch := decide (s.crcState ^^^ 0xFFFFFFFF = s.arg) } }

/-- `CRC.TAB`: the table entry goes to `RESULT`, nothing else changes (41_crc.md section 3). The table's construction is the spec's "[from
general knowledge, not in source]" (log entry 13). -/
def Obligations.CrcTabReadsTheTable : Prop :=
  CommandWords 0x15 0x00FFFF00 (fun w => .crcTab (w.extractLsb' 0 8)) ∧
  ∀ (s : State) (n : Byte), s.status.err = false → exec (.crcTab n) s = .next { s with result := crcTable n }

/-- The table of 41_crc.md section 2: every entry is the 8 steps of R82 from its index. The construction is the spec's "[from general
knowledge, not in source]" (log entry 13). So an entry depends linearly (over xor) on its index, the entry of 0x80 is the
polynomial constant, and distinct indexes have distinct entries. -/
def Obligations.CrcTableIsLinearInItsIndex : Prop :=
  (∀ n : Byte, crcTable n = (List.range 8).foldl
    (fun (c : Word) _ => if c.getLsbD 0 = true then 0xEDB88320 ^^^ (c >>> 1) else c >>> 1) (n.setWidth 32)) ∧
  (∀ m n : Byte, crcTable (m ^^^ n) = crcTable m ^^^ crcTable n) ∧ crcTable 0x80 = 0xEDB88320 ∧
  Function.Injective crcTable

/-- 41_crc.md section 2, the spec's "[derived: from rules R83, R85, R86, R87 and 10_state.md rule R27]": after `CRC.INIT` and any way of feeding bytes, by `CRC.BYTE` or by `ARG` and `CRC.WORD`, the two CRC registers hold the
fold and the checksum of the bytes fed; the empty sequence has checksum 0. The byte step is the spec's "[from general knowledge, not in
source]" (log entry 13). -/
def Obligations.ChecksumOfTheBytesFed : Prop :=
  (∀ (s : State) (feeds : List CrcFeed), s.inReset = false → s.status.err = false → (∀ f ∈ feeds, f.ok) →
    ∃ t, deliverAll (asmEvents (.cmd .crcInit :: feeds.flatMap CrcFeed.lines)) s = .next t ∧
      t.crcState = crcFold 0xFFFFFFFF (feeds.flatMap CrcFeed.bytes) ∧
      busRead 32 0x24 t = (crcFold 0xFFFFFFFF (feeds.flatMap CrcFeed.bytes) ^^^ 0xFFFFFFFF, .okay) ∧
      t.status = s.status) ∧
  crcOf [] = 0

/-- R69: the pseudo-instruction `crc.bytes` feeds every byte once and in order, however the bytes are grouped. (What `ARG` holds above a
short last group, log entry 21, is not stated.) -/
def Obligations.CrcBytesFeedsEveryByte : Prop :=
  (∀ (s : State) (bs : List Byte), s.inReset = false → s.status.err = false →
    ∃ t, deliverAll (asmEvents (Pseudo.crcBytes bs).expand) s = .next t ∧ t.crcState = crcFold s.crcState bs ∧
      t.result = s.result ∧ t.status = s.status) ∧
  (∀ (bs : List Byte), (byteGroups bs).flatten = bs ∧ ∀ g ∈ byteGroups bs, 1 ≤ g.length ∧ g.length ≤ 4)

/-- R69: the pseudo-instruction `sl.bytes` leaves the block as pushing the bytes one by one does (but for `ARG` and the answers given),
when no push raises an error. (What `ARG` holds above a short last group, log entry 21, is not stated.) -/
def Obligations.SlBytesPushesEveryByte : Prop :=
  ∀ (s t : State) (bs : List Byte), s.inReset = false → s.status.err = false → s.status.slActive = true →
    execAll (bs.map .slPush) s = .next t → t.status.err = false →
    ∃ u, deliverAll (asmEvents (Pseudo.slBytes bs).expand) s = .next u ∧
      u = { t with arg := u.arg, responses := u.responses }

/-! ### Predictor commands -/

/-- R96, with its words and errors: `RESULT[7:0]` is the Paeth value, `RESULT[9:8]` the selection code, the rest 0; never 3, and 0
for three equal operands; nothing else changes; every word of the opcode is legal. -/
def Obligations.PaethCommandGivesValueAndSelection : Prop :=
  CommandWords 0x30 0x00000000 (fun w => .paeth (w.extractLsb' 0 8) (w.extractLsb' 8 8) (w.extractLsb' 16 8)) ∧
  ∀ (s : State) (a b c : Byte), s.status.err = false →
    ∃ r : Word, exec (.paeth a b c) s = .next { s with result := r } ∧
      r.extractLsb' 0 8 = paethValue a b c ∧ r.extractLsb' 8 2 = (paethSel a b c).code ∧ r.extractLsb' 10 22 = 0 ∧
      (paethSel a b c).code ≠ 3 ∧ (a = b → b = c → r.extractLsb' 8 2 = 0)

/-- 42_predictor.md section 1 (R94): on exact integers the predictor takes the neighbour nearest to `a + b - c`, ties in the order a, b,
c; and the equalities and ranges of its comments, of which the spec says: "The equalities in the comments are [derived: from
`p = a + b - c`]." -/
def Obligations.PaethTakesTheNearestNeighbour : Prop :=
  ∀ a b c : Byte,
    let p : Int := (a.toNat : Int) + b.toNat - c.toNat
    let pa := |p - (a.toNat : Int)|
    let pb := |p - (b.toNat : Int)|
    let pc := |p - (c.toNat : Int)|
    (pa ≤ pb → pa ≤ pc → paethValue a b c = a ∧ (paethSel a b c).code = 0) ∧
    (¬ (pa ≤ pb ∧ pa ≤ pc) → pb ≤ pc → paethValue a b c = b ∧ (paethSel a b c).code = 1) ∧
    (¬ (pa ≤ pb ∧ pa ≤ pc) → ¬ pb ≤ pc → paethValue a b c = c ∧ (paethSel a b c).code = 2) ∧
    pa = |(b.toNat : Int) - c.toNat| ∧ pb = |(a.toNat : Int) - c.toNat| ∧ pc = |(a.toNat : Int) + b.toNat - 2 * c.toNat| ∧
    -255 ≤ p ∧ p ≤ 510 ∧ pa ≤ 255 ∧ pb ≤ 255 ∧ pc ≤ 510

/-- 42_predictor.md section 2: each predictor on exact integers, always a byte, and the one reduction mod 256 at the end (the spec's
"[derived: from rule R93 and 90_conflicts.md C3]"). -/
def Obligations.ReconstructionAddsThePredictor : Prop :=
  ∀ x a b c : Byte,
    (recon .none x a b c).toNat = x.toNat ∧
    (recon .sub x a b c).toNat = (x.toNat + a.toNat) % 256 ∧
    (recon .up x a b c).toNat = (x.toNat + b.toNat) % 256 ∧
    (recon .average x a b c).toNat = (x.toNat + (a.toNat + b.toNat) / 2) % 256 ∧
    (recon .paeth x a b c).toNat = (x.toNat + (paethValue a b c).toNat) % 256 ∧
    ∀ ft : FilterType, predictor ft a b c ≤ 255

/-- The spec's "[derived: from rule R95]" on the bijection: for fixed filter type and neighbours, reconstruction is a bijection on bytes, with the forward filter as its inverse; type 0 is
the identity. -/
def Obligations.ReconstructionIsABijection : Prop :=
  ∀ (ft : FilterType) (a b c : Byte),
    Function.Bijective (fun x => recon ft x a b c) ∧
    (∀ r : Byte, recon ft (BitVec.ofInt 8 (((r.toNat : Int) - predictor ft a b c) % 256)) a b c = r) ∧
    (∀ x : Byte, recon .none x a b c = x)

/-- R97, with its words and errors: a filter type 0 to 4 reconstructs the byte in `ARG`; one of 5 to 255 raises `E_FILTER` with row 0 and
touches neither `RESULT` nor the session. -/
def Obligations.UnfiltReconstructsOrRaisesFilter : Prop :=
  CommandWords 0x31 0x00FFFF00 (fun w => .unfilt (w.extractLsb' 0 8)) ∧
  (∀ (s : State) (ft : FilterType), s.status.err = false →
    exec (.unfilt ft.toByte) s = .next { s with
      result := (recon ft (s.arg.extractLsb' 0 8) (s.arg.extractLsb' 8 8) (s.arg.extractLsb' 16 8)
        (s.arg.extractLsb' 24 8)).setWidth 32 }) ∧
  (∀ (s : State) (v : Byte), s.status.err = false → 4 < v.toNat →
    exec (.unfilt v) s = .next { s with
      status := { s.status with err := true }
      errInfo := { code := .filter, d0 := v, d1 := 0, opc := 0x31 }
      errRow := 0 })

/-! ### Scanline commands -/

/-- 43_scanline.md section 2 (R105), with the words and errors of `SL.BEGIN`: a header that is not accepted raises `E_UNSUPPORTED` whatever
the width; an accepted one with width 0 or above `LINE_MAX` raises `E_WIDTH`; on either nothing but the error record changes;
otherwise a session opens, and nothing but the registers named changes. That opening a session leaves every byte of both line
buffers is the model's inference, log entry 20: after it the spec lets them hold any value (U2). -/
def Obligations.SlBeginOpensASessionOrRaises : Prop :=
  CommandWords 0x20 0x00FE0000 (fun w =>
    .slBegin (w.extractLsb' 0 8) (w.extractLsb' 8 8) (if w.getLsbD 16 then .encode else .decode)) ∧
  ∀ (s : State) (ct bd : Byte) (dir : Direction), s.status.err = false →
    let accepted := bd = 8 ∧ ((dir = .decode ∧ (ct = 2 ∨ ct = 6)) ∨ (dir = .encode ∧ ct = 6))
    (¬ accepted →
      exec (.slBegin ct bd dir) s = .next { s with
        status := { s.status with err := true }
        errInfo := { code := .unsupported, d0 := ct, d1 := bd, opc := 0x20 }
        errRow := 0 }) ∧
    (accepted → (s.arg.toNat = 0 ∨ s.lineMax < s.arg.toNat) →
      exec (.slBegin ct bd dir) s = .next { s with
        status := { s.status with err := true }
        errInfo := { code := .width, d0 := 0, d1 := 0, opc := 0x20 }
        errRow := 0 }) ∧
    (accepted → 1 ≤ s.arg.toNat → s.arg.toNat ≤ s.lineMax →
      exec (.slBegin ct bd dir) s = .next { s with
        status := { s.status with
          slActive := true
          dir := dir
          bpp := if dir = .decode ∧ ct = 2 then .rgb else .rgba
          hasRow := false
          ftype := .none }
        slWidth := s.arg
        slRow := 0
        slCol := 0 })

/-- 43_scanline.md section 4 (R110), by the command `SL.PUSH`: the filter-type byte of a decode row: 0 to 4 is taken; above 4 raises
`E_FILTER` with the row index and aborts the session, every other session register and both line buffers as they were. That a byte
that is taken leaves all of `CUR` and `PREV` past the row is the model's inference, log entry 20: the spec lets those bytes hold any
value (U2). -/
def Obligations.SlPushTakesTheFilterTypeByte : Prop :=
  ∀ (s : State) (v : Byte), s.status.err = false → s.status.slActive = true → s.status.dir = .decode → s.slCol = 0 →
    (∀ ft : FilterType, v = ft.toByte →
      exec (.slPush v) s = .next { s with status := { s.status with ftype := ft }, slCol := 1 }) ∧
    (4 < v.toNat →
      exec (.slPush v) s = .next { s with
        status := { s.status with err := true, slActive := false }
        errInfo := { code := .filter, d0 := v, d1 := 0, opc := 0x21 }
        errRow := s.slRow })

/-- 43_scanline.md section 4 and 10_state.md section 8 (R111, R33), by the command `SL.PUSH`: a decode sample. `CUR[i]` becomes the
reconstruction with the neighbours of R33; inside the row only `SL_COL` moves on; the last sample completes the row. Every other
register, flag and line byte is unchanged. R111 speaks of `1 <= SL_COL <= rowlen`: above the row length (where no run comes) the
model's choice of log entry 10 is stated. That the bytes of `CUR` at and past `SL_COL` (with a completed row all of `CUR`) and of `PREV`
past the row keep their value is the model's inference, log entry 20: the spec lets them hold any value (U2). -/
def Obligations.SlPushReconstructsASample : Prop :=
  ∀ (s : State) (v : Byte) (i : Nat), s.status.err = false → s.status.slActive = true → s.status.dir = .decode →
    s.slCol.toNat = i + 1 → i < 4 * s.lineMax →
    let bpp := s.status.bpp.toNat
    let a := if i ≥ bpp then s.lineByte .cur (i - bpp) else 0
    let b := if s.status.hasRow = true then s.lineByte .prev i else 0
    let c := if s.status.hasRow = true ∧ i ≥ bpp then s.lineByte .prev (i - bpp) else 0
    let x := recon s.status.ftype v a b c
    ∃ t, exec (.slPush v) s = .next t ∧
      (∀ j, t.lineByte .cur j = if j = i then x else s.lineByte .cur j) ∧
      (s.slCol.toNat ≠ s.slWidth.toNat * bpp →
        t = { s with slCol := s.slCol + 1, cur := t.cur } ∧ ∀ j, t.lineByte .prev j = s.lineByte .prev j) ∧
      (s.slCol.toNat = s.slWidth.toNat * bpp →
        t = { s with
          status := { s.status with hasRow := true }
          slRow := s.slRow + 1
          slCol := 0
          prev := t.prev
          cur := t.cur } ∧
        ∀ j, t.lineByte .prev j = if j < s.slWidth.toNat * bpp then t.lineByte .cur j else s.lineByte .prev j)

/-- 43_scanline.md section 4 (R114), by the command `SL.PUSH`: a raster byte in encode is stored as it is; the last byte of the row
completes it. With `SL_COL` at or past the row length (where no run comes) the model's choice of log entry 10 is stated. That the
bytes of `CUR` past `SL_COL` (with a completed row all of `CUR`) and of `PREV` past the row keep their value is the model's inference,
log entry 20: the spec lets them hold any value (U2). -/
def Obligations.SlPushStoresARasterByte : Prop :=
  ∀ (s : State) (v : Byte), s.status.err = false → s.status.slActive = true → s.status.dir = .encode →
    s.slCol.toNat < 4 * s.lineMax →
    ∃ t, exec (.slPush v) s = .next t ∧
      (∀ j, t.lineByte .cur j = if j = s.slCol.toNat then v else s.lineByte .cur j) ∧
      (s.slCol.toNat + 1 ≠ 4 * s.slWidth.toNat →
        t = { s with slCol := s.slCol + 1, cur := t.cur } ∧ ∀ j, t.lineByte .prev j = s.lineByte .prev j) ∧
      (s.slCol.toNat + 1 = 4 * s.slWidth.toNat →
        t = { s with
          status := { s.status with hasRow := true }
          slRow := s.slRow + 1
          slCol := 0
          prev := t.prev
          cur := t.cur } ∧
        ∀ j, t.lineByte .prev j = if j < 4 * s.slWidth.toNat then t.lineByte .cur j else s.lineByte .prev j)

/-- `SL.PUSH`, its words and its errors but `E_FILTER` (43_scanline.md section 3): without a session a push raises `E_STATE` and changes
nothing else. -/
def Obligations.SlPushNeedsASession : Prop :=
  CommandWords 0x21 0x00FFFF00 (fun w => .slPush (w.extractLsb' 0 8)) ∧
  ∀ (s : State) (v : Byte), s.status.err = false → s.status.slActive = false →
    exec (.slPush v) s = .next { s with
      status := { s.status with err := true }
      errInfo := { code := .state, d0 := 0, d1 := 0, opc := 0x21 }
      errRow := 0 }

/-- 43_scanline.md section 4, with the words and errors of `SL.PUSHW`: without a session it raises `E_STATE`; with one it completes in the
state that as many `SL.PUSH` commands with the bytes of `ARG` leave, but that a recorded error names `SL.PUSHW`: the bytes before a
bad filter-type byte stay applied, the ones after it are not pushed. The spec: "Equal in effect to `n` `SL.PUSH` commands with the
same bytes, up to the first error [derived: from rules R108, R109]." -/
def Obligations.SlPushwEqualsPushesUpToTheFirstError : Prop :=
  CommandWords 0x22 0x00FFFFFC (fun w => .slPushw ((w.extractLsb' 0 2).toNat + 1)) ∧
  (∀ (s : State) (n : Nat), s.status.err = false → s.status.slActive = false →
    exec (.slPushw n) s = .next { s with
      status := { s.status with err := true }
      errInfo := { code := .state, d0 := 0, d1 := 0, opc := 0x22 }
      errRow := 0 }) ∧
  (∀ (s : State) (n : Nat), Inv s → s.status.err = false → s.status.slActive = true → 1 ≤ n → n ≤ 4 →
    ∃ t, execAll ((List.range n).map (fun k => .slPush (s.arg.extractLsb' (8 * k) 8))) s = .next t ∧
      exec (.slPushw n) s =
        .next (if t.status.err = true then { t with errInfo := { t.errInfo with opc := 0x22 } } else t))

/-- R119, with its words and errors: without a completed row, or with `i + n` (exact) past the output row, `SL.READW` raises `E_INDEX`;
otherwise, in a state with the invariant of R34, `RESULT` holds the bytes of the output row, first byte least significant, and
nothing else changes. No session need be open. -/
def Obligations.SlReadwReadsTheOutputRowOrRaisesIndex : Prop :=
  CommandWords 0x23 0x00FFFFFC (fun w => .slReadw ((w.extractLsb' 0 2).toNat + 1)) ∧
  (∀ (s : State) (n : Nat), s.status.err = false → s.status.hasRow = false ∨ s.outLen < s.arg.toNat + n →
    exec (.slReadw n) s = .next { s with
      status := { s.status with err := true }
      errInfo := { code := .index, d0 := 0, d1 := 0, opc := 0x23 }
      errRow := 0 }) ∧
  (∀ (s : State) (n : Nat), Inv s → s.status.err = false → s.status.hasRow = true → 1 ≤ n → n ≤ 4 →
    s.arg.toNat + n ≤ s.outLen →
    ∃ r : Word, exec (.slReadw n) s = .next { s with result := r } ∧
      (∀ k, k < n → s.outByte (s.arg.toNat + k) = some (r.extractLsb' (8 * k) 8)) ∧
      (∀ j, 8 * n ≤ j → r.getLsbD j = false))

/-- 43_scanline.md section 5: the output row, in decode of RGB and of RGBA and in encode, for every position. -/
def Obligations.OutputRowIsTheExpandedRow : Prop :=
  ∀ s : State, Inv s → s.status.hasRow = true →
    (s.status.dir = .decode → s.outLen = 4 * s.slWidth.toNat ∧
      (∀ x k, x < s.slWidth.toNat → k < s.status.bpp.toNat →
        s.outByte (4 * x + k) = some (s.lineByte .prev (x * s.status.bpp.toNat + k))) ∧
      (s.status.bpp = .rgb → ∀ x, x < s.slWidth.toNat → s.outByte (4 * x + 3) = some 255)) ∧
    (s.status.dir = .encode → s.outLen = 1 + 4 * s.slWidth.toNat ∧ s.outByte 0 = some 0 ∧
      ∀ j, j < 4 * s.slWidth.toNat → s.outByte (1 + j) = some (s.lineByte .prev j))

/-- R120, with its words and errors: without a session `SL.END` raises `E_STATE`; inside a row `E_PARTIAL`, and the session stays open; between
rows the session closes and nothing else changes. -/
def Obligations.SlEndClosesBetweenRows : Prop :=
  CommandWords 0x24 0x00FFFFFF (fun _ => .slEnd) ∧
  ∀ s : State, s.status.err = false →
    (s.status.slActive = false → exec .slEnd s = .next { s with
      status := { s.status with err := true }
      errInfo := { code := .state, d0 := 0, d1 := 0, opc := 0x24 }
      errRow := 0 }) ∧
    (s.status.slActive = true → s.slCol ≠ 0 → exec .slEnd s = .next { s with
      status := { s.status with err := true }
      errInfo := { code := .partialRow, d0 := 0, d1 := 0, opc := 0x24 }
      errRow := 0 }) ∧
    (s.status.slActive = true → s.slCol = 0 →
      exec .slEnd s = .next { s with status := { s.status with slActive := false } })

/-! ### Frames -/

/-- The frame of the commands that store no line byte and write no session register: only the registers named for each may differ, and
every line byte reads as before. -/
def Obligations.FrameOfCommandsWithoutASession : Prop :=
  ∀ (i : Instr) (s t : State), exec i s = .next t →
    (i = .crcInit ∨ (∃ v, i = .crcByte v) ∨ (∃ n, i = .crcWord n) ∨ i = .crcLoad →
      t = { s with crcState := t.crcState } ∧ SameLineBytes s t) ∧
    (i = .crcChk → t = { s with status := { s.status with crcMatch := t.status.crcMatch } } ∧ SameLineBytes s t) ∧
    ((∃ n, i = .crcTab n) ∨ (∃ a b c, i = .paeth a b c) → t = { s with result := t.result } ∧ SameLineBytes s t) ∧
    ((∃ ft, i = .unfilt ft) ∨ (∃ n, i = .slReadw n) →
      t = { s with
        result := t.result
        status := { s.status with err := t.status.err }
        errInfo := t.errInfo
        errRow := t.errRow } ∧ SameLineBytes s t) ∧
    (i = .nop ∨ i = .clrerr →
      t = { s with status := { s.status with err := t.status.err }, errInfo := t.errInfo, errRow := t.errRow } ∧
      SameLineBytes s t)

/-- The frame of `SL.BEGIN` and `SL.END`: the session registers each writes, the error record, and no line byte. That `SL.BEGIN` leaves
every byte of both line buffers is the model's inference, log entry 20: after it the spec lets them hold any value (U2). -/
def Obligations.FrameOfOpeningAndClosingASession : Prop :=
  ∀ (i : Instr) (s t : State), exec i s = .next t →
    ((∃ ct bd dir, i = .slBegin ct bd dir) →
      t = { s with
        status := { t.status with crcMatch := s.status.crcMatch }
        errInfo := t.errInfo
        errRow := t.errRow
        slWidth := t.slWidth
        slRow := t.slRow
        slCol := t.slCol } ∧ SameLineBytes s t) ∧
    (i = .slEnd →
      t = { s with
        status := { s.status with slActive := t.status.slActive, err := t.status.err }
        errInfo := t.errInfo
        errRow := t.errRow } ∧ SameLineBytes s t)

/-- The frame of `SL.PUSH` and `SL.PUSHW`: of the registers only those R108 and R111 name; of `CUR` only the bytes at the indexes the
pushes store at (`pushTargets`, computed in the states the earlier bytes leave); of `PREV` nothing while no row completes, and
never a byte at or past the row length. That the bytes of `CUR` at and past `SL_COL` outside those indexes, and of `PREV` at and
past the row length, keep their value is the model's inference, log entry 20: the spec lets them hold any value (U2). -/
def Obligations.FrameOfThePushes : Prop :=
  ∀ (i : Instr) (bs : List Byte) (s t : State), exec i s = .next t →
    (∃ v, i = .slPush v ∧ bs = [v]) ∨ (∃ n, i = .slPushw n ∧ n ≤ 4 ∧ bs = bytesOf n s.arg) →
    t = { s with
      status := { s.status with
        err := t.status.err
        slActive := t.status.slActive
        hasRow := t.status.hasRow
        ftype := t.status.ftype }
      errInfo := t.errInfo
      errRow := t.errRow
      slRow := t.slRow
      slCol := t.slCol
      prev := t.prev
      cur := t.cur } ∧
    (∀ j, j ∉ pushTargets i.opcode bs s → t.lineByte .cur j = s.lineByte .cur j) ∧
    (t.slRow = s.slRow → ∀ j, t.lineByte .prev j = s.lineByte .prev j) ∧
    (s.status.dir = .decode → ∀ j, s.rowlen ≤ j → t.lineByte .prev j = s.lineByte .prev j) ∧
    (s.status.dir = .encode → ∀ j, 4 * s.slWidth.toNat ≤ j → t.lineByte .prev j = s.lineByte .prev j)

/-! ### Whole-machine rules -/

/-- R25: `RESULT` changes only by a successful `CRC.TAB`, `PAETH`, `UNFILT` or `SL.READW`, and by `SRESET`; bus writes at its offset are
ignored; a read returns it; its reset value is 0. -/
def Obligations.ResultChangesOnlyBySuccess : Prop :=
  (∀ (i : Instr) (s t : State), exec i s = .next t → t.result ≠ s.result →
    (((∃ n, i = .crcTab n) ∨ (∃ a b c, i = .paeth a b c) ∨ (∃ ft, i = .unfilt ft) ∨ (∃ n, i = .slReadw n)) ∧
      t.status.err = false) ∨ i = .sreset) ∧
  (∀ (s : State) (data : Word), busWrite 32 0x10 data s = .next s ∧ busRead 32 0x10 s = (s.result, .okay)) ∧
  State.reset.result = 0 ∧ ∀ s t : State, exec .sreset s = .next t → t.result = 0

/-- R24, R26, R28: no command but a reset changes `ARG`; which commands write `CRC_STATE` and `SL_WIDTH`, and with what. -/
def Obligations.ArgCrcStateAndWidthAreWrittenOnlyByTheirCommands : Prop :=
  ∀ (i : Instr) (s t : State), exec i s = .next t →
    (t.arg ≠ s.arg → i = .sreset ∧ t.arg = 0) ∧
    (t.crcState ≠ s.crcState →
      i = .crcInit ∨ (∃ v, i = .crcByte v) ∨ (∃ n, i = .crcWord n) ∨ (i = .crcLoad ∧ t.crcState = s.arg) ∨ i = .sreset) ∧
    (t.slWidth ≠ s.slWidth → (∃ ct bd dir, i = .slBegin ct bd dir ∧ t.slWidth = s.arg) ∨ (i = .sreset ∧ t.slWidth = 0))

/-- The "written by" column of R21: which commands change each field of `STATUS`. -/
def Obligations.StatusFieldsAreWrittenOnlyByTheirCommands : Prop :=
  ∀ (i : Instr) (s t : State), exec i s = .next t → i ≠ .sreset →
    (s.status.err = true → t.status.err = false → i = .clrerr) ∧
    (t.status.crcMatch ≠ s.status.crcMatch → i = .crcChk) ∧
    (t.status.slActive ≠ s.status.slActive →
      (∃ ct bd dir, i = .slBegin ct bd dir) ∨ i = .slEnd ∨
      (((∃ v, i = .slPush v) ∨ (∃ n, i = .slPushw n)) ∧ t.errInfo.code = .filter)) ∧
    (t.status.dir ≠ s.status.dir ∨ t.status.bpp ≠ s.status.bpp → ∃ ct bd dir, i = .slBegin ct bd dir) ∧
    (t.status.hasRow ≠ s.status.hasRow →
      ((∃ ct bd dir, i = .slBegin ct bd dir) ∧ t.status.hasRow = false) ∨
      (((∃ v, i = .slPush v) ∨ (∃ n, i = .slPushw n)) ∧ t.status.hasRow = true)) ∧
    (t.status.ftype ≠ s.status.ftype →
      ((∃ ct bd dir, i = .slBegin ct bd dir) ∧ t.status.ftype = .none) ∨
      (((∃ v, i = .slPush v) ∨ (∃ n, i = .slPushw n)) ∧ s.status.dir = .decode))

/-- R132 with the exceptions it names: a command that raises changes nothing but the error record, except an `E_FILTER` of a push, which
aborts the session and keeps the bytes that the command took before the bad one. -/
def Obligations.ErrorsArePrecise : Prop :=
  ∀ (w : Word) (s t : State), execute w s = .next t → s.status.err = false → t.status.err = true →
    t = { s with status := { s.status with err := true }, errInfo := t.errInfo, errRow := t.errRow } ∨
    (t.errInfo.code = .filter ∧
      ((∃ v, decode w = .command (.slPush v) ∧
        t = { s with status := { s.status with err := true, slActive := false }, errInfo := t.errInfo, errRow := s.slRow }) ∨
      (∃ n k u, decode w = .command (.slPushw n) ∧ k < n ∧
        execAll ((List.range k).map (fun j => .slPush (s.arg.extractLsb' (8 * j) 8))) s = .next u ∧ u.status.err = false ∧
        t = { u with status := { u.status with err := true, slActive := false }, errInfo := t.errInfo, errRow := u.slRow })))

/-- R127, row by row: which command can raise which code, the number of the code as a host reads it, its detail bytes and row; `OPC` is in
every case the opcode byte of the command word; the codes 0x08 to 0xFF are never recorded; with no error recorded (in a state with
the invariant) every byte of the record is 0. -/
def Obligations.EachCommandRaisesOnlyItsErrors : Prop :=
  (∀ (w : Word) (s t : State), execute w s = .next t → s.status.err = false → t.status.err = true →
    t.errInfo.toWord.extractLsb' 24 8 = w.extractLsb' 24 8 ∧ t.errInfo.opc = w.extractLsb' 24 8 ∧
    ((t.errInfo.code = .illegal ∧ t.errInfo.toWord.extractLsb' 0 8 = 0x03 ∧ (∃ y, decode w = .illegal y) ∧
       t.errInfo.d0 = 0 ∧ t.errInfo.d1 = 0 ∧ t.errRow = 0) ∨
     (t.errInfo.code = .filter ∧ t.errInfo.toWord.extractLsb' 0 8 = 0x01 ∧ 4 < t.errInfo.d0.toNat ∧ t.errInfo.d1 = 0 ∧
       ((decode w = .command (.unfilt t.errInfo.d0) ∧ t.errRow = 0) ∨
        ((decode w = .command (.slPush t.errInfo.d0) ∨
            (∃ n k, decode w = .command (.slPushw n) ∧ k < n ∧ t.errInfo.d0 = s.arg.extractLsb' (8 * k) 8)) ∧
          s.status.dir = .decode ∧ t.errRow = t.slRow))) ∨
     (t.errInfo.code = .unsupported ∧ t.errInfo.toWord.extractLsb' 0 8 = 0x02 ∧ t.errRow = 0 ∧
       ∃ dir, decode w = .command (.slBegin t.errInfo.d0 t.errInfo.d1 dir) ∧
         ¬ (t.errInfo.d1 = 8 ∧ (t.errInfo.d0 = 6 ∨ (dir = .decode ∧ t.errInfo.d0 = 2)))) ∨
     (t.errInfo.code = .state ∧ t.errInfo.toWord.extractLsb' 0 8 = 0x04 ∧ t.errInfo.d0 = 0 ∧ t.errInfo.d1 = 0 ∧ t.errRow = 0 ∧
       s.status.slActive = false ∧
       ((∃ v, decode w = .command (.slPush v)) ∨ (∃ n, decode w = .command (.slPushw n)) ∨ decode w = .command .slEnd)) ∨
     (t.errInfo.code = .width ∧ t.errInfo.toWord.extractLsb' 0 8 = 0x05 ∧ t.errInfo.d0 = 0 ∧ t.errInfo.d1 = 0 ∧ t.errRow = 0 ∧
       (s.arg.toNat = 0 ∨ s.lineMax < s.arg.toNat) ∧ ∃ ct bd dir, decode w = .command (.slBegin ct bd dir)) ∨
     (t.errInfo.code = .index ∧ t.errInfo.toWord.extractLsb' 0 8 = 0x06 ∧ t.errInfo.d0 = 0 ∧ t.errInfo.d1 = 0 ∧ t.errRow = 0 ∧
       ∃ n, decode w = .command (.slReadw n) ∧ (s.status.hasRow = false ∨ s.outLen < s.arg.toNat + n)) ∨
     (t.errInfo.code = .partialRow ∧ t.errInfo.toWord.extractLsb' 0 8 = 0x07 ∧ t.errInfo.d0 = 0 ∧ t.errInfo.d1 = 0 ∧
       t.errRow = 0 ∧ s.status.slActive = true ∧ s.slCol ≠ 0 ∧ decode w = .command .slEnd))) ∧
  (∀ s : State, (s.errInfo.toWord.extractLsb' 0 8).toNat < 0x08) ∧
  (∀ s : State, Inv s → s.status.err = false → s.errInfo.toWord = 0 ∧ s.errRow = 0)

/-- R128: the CRC commands, `NOP`, `CLRERR`, `SRESET` and `PAETH` raise nothing; any word of theirs that decodes leaves `ERR` clear. -/
def Obligations.CommandsWithoutFailureModesNeverRaise : Prop :=
  ∀ (i : Instr) (s : State), s.status.err = false →
    i = .crcInit ∨ (∃ v, i = .crcByte v) ∨ (∃ n, i = .crcWord n) ∨ i = .crcLoad ∨ i = .crcChk ∨ (∃ n, i = .crcTab n) ∨
      i = .nop ∨ i = .clrerr ∨ i = .sreset ∨ (∃ a b c, i = .paeth a b c) →
    ∃ t, exec i s = .next t ∧ t.status.err = false

/-- R118, R145: the output row stays until a row completes, a session opens or a reset: any command that does none of these leaves every
byte of it. -/
def Obligations.OutputRowStaysUntilTheNextRow : Prop :=
  ∀ (i : Instr) (s t : State), i.wellFormed = true → exec i s = .next t → s.status.hasRow = true → t.slRow = s.slRow →
    i ≠ .sreset → (∀ ct bd dir, i ≠ .slBegin ct bd dir) →
    t.status.hasRow = true ∧ t.outLen = s.outLen ∧ ∀ j, t.outByte j = s.outByte j

/-! ### Invariants -/

/-- The invariant holds right after reset, whatever waits at the port. -/
def Obligations.ResetStateMeetsTheInvariant : Prop :=
  ∀ es : List BusEvent, Inv (State.reset.setInbox es)

/-- R34 (with R28, R30, R32): every step from a state with the invariant ends in one with it. The items of `Inv` beyond R34 are the
model's inference. -/
def Obligations.EveryStepKeepsTheInvariant : Prop :=
  ∀ s t : State, Inv s → step s = .next t → Inv t

/-- R32, R118: from a state with the invariant no step stops the machine: no access goes past the end of a line buffer (the
fault that log entry 6 chose for it). -/
def Obligations.NoStepStopsFromTheInvariant : Prop :=
  ∀ s : State, Inv s → Safe s

/-- R34 over the registers a host reads, in every state a run can reach from reset. -/
def Obligations.ReachableStatesMeetTheRegisterInvariants : Prop :=
  ∀ s : State, Reachable s →
    Safe s ∧
    (s.status.toWord.getLsbD 0 = false ↔ s.errInfo.toWord.extractLsb' 0 8 = 0) ∧
    (s.status.toWord.getLsbD 0 = false → s.errInfo.toWord = 0 ∧ s.errRow = 0) ∧
    (s.errInfo.toWord.extractLsb' 0 8).toNat ≤ 7 ∧
    (s.status.toWord.extractLsb' 8 3 = 0 ∨ s.status.toWord.extractLsb' 8 3 = 3 ∨ s.status.toWord.extractLsb' 8 3 = 4) ∧
    (s.status.toWord.extractLsb' 8 3 = 0 → s.slWidth = 0 ∧ s.status.slActive = false ∧ s.status.hasRow = false) ∧
    (s.status.toWord.extractLsb' 8 3 ≠ 0 → 1 ≤ s.slWidth.toNat ∧ s.slWidth.toNat ≤ s.lineMax) ∧
    (s.status.dir = .encode → s.status.toWord.extractLsb' 8 3 = 4 ∧ s.slCol.toNat < s.rowlen ∧
      s.status.toWord.extractLsb' 16 8 = 0) ∧
    (s.status.dir = .decode → s.slCol.toNat ≤ s.rowlen) ∧
    (s.status.toWord.extractLsb' 16 8).toNat ≤ 4 ∧
    (s.slRow ≠ 0 → s.status.hasRow = true)

/-- R32 ("cannot be observed"), U1: in a state with the invariant, what a step does to everything a run can show does not depend on the
unspecified bytes of the line buffers: with other unspecified bytes (another argument of the free value, the form log entry 5 chose) the step is
the same. -/
def Obligations.UnspecifiedLineBytesCannotBeObserved : Prop :=
  ∀ (s : State) (k : Nat), Inv s →
    ∃ t m, step s = .next t ∧ step { s with resets := k } = .next { t with resets := m }

/-! ### Rows and round trips -/

/-- R104, R111, R118, R112: pushing a whole filtered row of an open decode session reconstructs it as the source defines, sample by
sample, with the previous row above; the output row is its RGBA expansion. -/
def Obligations.PushingARowReconstructsIt : Prop :=
  ∀ (s : State) (ft : FilterType) (xs : List Byte), Inv s → s.status.err = false → s.status.slActive = true →
    s.status.dir = .decode → s.slCol = 0 → xs.length = s.rowlen →
    ∃ t, execAll (.slPush ft.toByte :: xs.map .slPush) s = .next t ∧
      rowBytes t s.rowlen = reconRow ft s.status.bpp.toNat (rowAbove s) [] xs ∧
      t.slRow = s.slRow + 1 ∧ t.slCol = 0 ∧ t.status = { s.status with hasRow := true, ftype := ft } ∧
      t.outBytes 0 t.outLen = some
        (if s.status.bpp = .rgb then expandRgb (rowBytes t s.rowlen) else rowBytes t s.rowlen)

/-- R121: an encode session of width `W` fed a raster row has the output row `0 :: row`; a decode session (colour type 6) fed that output
row has the raster row as its output row. -/
def Obligations.DecodeAfterEncodeIsTheIdentity : Prop :=
  ∀ (s : State) (r : List Byte), s.status.err = false → s.lineMax ≤ 2 ^ 28 → 1 ≤ s.arg.toNat → s.arg.toNat ≤ s.lineMax →
    r.length = 4 * s.arg.toNat →
    ∃ t u, execAll (.slBegin 6 8 .encode :: r.map .slPush) s = .next t ∧
      t.outLen = 1 + 4 * s.arg.toNat ∧ t.outBytes 0 t.outLen = some (0 :: r) ∧
      execAll (.slBegin 6 8 .decode :: (0 :: r).map .slPush) t = .next u ∧
      u.outLen = 4 * s.arg.toNat ∧ u.outBytes 0 u.outLen = some r
end

