-- ==== Sys2Proof/Laws/State.lean ====
section
/-! SUPPORT. One lemma per field per update of the state, each true by unfolding the update once. -/

namespace Sys2Proof.Machine

variable (s : State)

@[simp] theorem State.setArg_lineMax (v : Word) : (s.setArg v).lineMax = s.lineMax := rfl
@[simp] theorem State.setArg_inReset (v : Word) : (s.setArg v).inReset = s.inReset := rfl
@[simp] theorem State.setArg_arg (v : Word) : (s.setArg v).arg = v := rfl
@[simp] theorem State.setArg_result (v : Word) : (s.setArg v).result = s.result := rfl
@[simp] theorem State.setArg_status (v : Word) : (s.setArg v).status = s.status := rfl
@[simp] theorem State.setArg_errInfo (v : Word) : (s.setArg v).errInfo = s.errInfo := rfl
@[simp] theorem State.setArg_errRow (v : Word) : (s.setArg v).errRow = s.errRow := rfl
@[simp] theorem State.setArg_crcState (v : Word) : (s.setArg v).crcState = s.crcState := rfl
@[simp] theorem State.setArg_slWidth (v : Word) : (s.setArg v).slWidth = s.slWidth := rfl
@[simp] theorem State.setArg_slRow (v : Word) : (s.setArg v).slRow = s.slRow := rfl
@[simp] theorem State.setArg_slCol (v : Word) : (s.setArg v).slCol = s.slCol := rfl
@[simp] theorem State.setArg_prev (v : Word) : (s.setArg v).prev = s.prev := rfl
@[simp] theorem State.setArg_cur (v : Word) : (s.setArg v).cur = s.cur := rfl
@[simp] theorem State.setArg_resets (v : Word) : (s.setArg v).resets = s.resets := rfl
@[simp] theorem State.setArg_inbox (v : Word) : (s.setArg v).inbox = s.inbox := rfl
@[simp] theorem State.setArg_responses (v : Word) : (s.setArg v).responses = s.responses := rfl

@[simp] theorem State.setResult_lineMax (v : Word) : (s.setResult v).lineMax = s.lineMax := rfl
@[simp] theorem State.setResult_inReset (v : Word) : (s.setResult v).inReset = s.inReset := rfl
@[simp] theorem State.setResult_arg (v : Word) : (s.setResult v).arg = s.arg := rfl
@[simp] theorem State.setResult_result (v : Word) : (s.setResult v).result = v := rfl
@[simp] theorem State.setResult_status (v : Word) : (s.setResult v).status = s.status := rfl
@[simp] theorem State.setResult_errInfo (v : Word) : (s.setResult v).errInfo = s.errInfo := rfl
@[simp] theorem State.setResult_errRow (v : Word) : (s.setResult v).errRow = s.errRow := rfl
@[simp] theorem State.setResult_crcState (v : Word) : (s.setResult v).crcState = s.crcState := rfl
@[simp] theorem State.setResult_slWidth (v : Word) : (s.setResult v).slWidth = s.slWidth := rfl
@[simp] theorem State.setResult_slRow (v : Word) : (s.setResult v).slRow = s.slRow := rfl
@[simp] theorem State.setResult_slCol (v : Word) : (s.setResult v).slCol = s.slCol := rfl
@[simp] theorem State.setResult_prev (v : Word) : (s.setResult v).prev = s.prev := rfl
@[simp] theorem State.setResult_cur (v : Word) : (s.setResult v).cur = s.cur := rfl
@[simp] theorem State.setResult_resets (v : Word) : (s.setResult v).resets = s.resets := rfl
@[simp] theorem State.setResult_inbox (v : Word) : (s.setResult v).inbox = s.inbox := rfl
@[simp] theorem State.setResult_responses (v : Word) : (s.setResult v).responses = s.responses := rfl

@[simp] theorem State.setStatus_lineMax (st : Status) : (s.setStatus st).lineMax = s.lineMax := rfl
@[simp] theorem State.setStatus_inReset (st : Status) : (s.setStatus st).inReset = s.inReset := rfl
@[simp] theorem State.setStatus_arg (st : Status) : (s.setStatus st).arg = s.arg := rfl
@[simp] theorem State.setStatus_result (st : Status) : (s.setStatus st).result = s.result := rfl
@[simp] theorem State.setStatus_status (st : Status) : (s.setStatus st).status = st := rfl
@[simp] theorem State.setStatus_errInfo (st : Status) : (s.setStatus st).errInfo = s.errInfo := rfl
@[simp] theorem State.setStatus_errRow (st : Status) : (s.setStatus st).errRow = s.errRow := rfl
@[simp] theorem State.setStatus_crcState (st : Status) : (s.setStatus st).crcState = s.crcState := rfl
@[simp] theorem State.setStatus_slWidth (st : Status) : (s.setStatus st).slWidth = s.slWidth := rfl
@[simp] theorem State.setStatus_slRow (st : Status) : (s.setStatus st).slRow = s.slRow := rfl
@[simp] theorem State.setStatus_slCol (st : Status) : (s.setStatus st).slCol = s.slCol := rfl
@[simp] theorem State.setStatus_prev (st : Status) : (s.setStatus st).prev = s.prev := rfl
@[simp] theorem State.setStatus_cur (st : Status) : (s.setStatus st).cur = s.cur := rfl
@[simp] theorem State.setStatus_resets (st : Status) : (s.setStatus st).resets = s.resets := rfl
@[simp] theorem State.setStatus_inbox (st : Status) : (s.setStatus st).inbox = s.inbox := rfl
@[simp] theorem State.setStatus_responses (st : Status) : (s.setStatus st).responses = s.responses := rfl

@[simp] theorem State.setErrRecord_lineMax (e : ErrInfo) (row : Word) : (s.setErrRecord e row).lineMax = s.lineMax := rfl
@[simp] theorem State.setErrRecord_inReset (e : ErrInfo) (row : Word) : (s.setErrRecord e row).inReset = s.inReset := rfl
@[simp] theorem State.setErrRecord_arg (e : ErrInfo) (row : Word) : (s.setErrRecord e row).arg = s.arg := rfl
@[simp] theorem State.setErrRecord_result (e : ErrInfo) (row : Word) : (s.setErrRecord e row).result = s.result := rfl
@[simp] theorem State.setErrRecord_status (e : ErrInfo) (row : Word) : (s.setErrRecord e row).status = s.status := rfl
@[simp] theorem State.setErrRecord_errInfo (e : ErrInfo) (row : Word) : (s.setErrRecord e row).errInfo = e := rfl
@[simp] theorem State.setErrRecord_errRow (e : ErrInfo) (row : Word) : (s.setErrRecord e row).errRow = row := rfl
@[simp] theorem State.setErrRecord_crcState (e : ErrInfo) (row : Word) : (s.setErrRecord e row).crcState = s.crcState := rfl
@[simp] theorem State.setErrRecord_slWidth (e : ErrInfo) (row : Word) : (s.setErrRecord e row).slWidth = s.slWidth := rfl
@[simp] theorem State.setErrRecord_slRow (e : ErrInfo) (row : Word) : (s.setErrRecord e row).slRow = s.slRow := rfl
@[simp] theorem State.setErrRecord_slCol (e : ErrInfo) (row : Word) : (s.setErrRecord e row).slCol = s.slCol := rfl
@[simp] theorem State.setErrRecord_prev (e : ErrInfo) (row : Word) : (s.setErrRecord e row).prev = s.prev := rfl
@[simp] theorem State.setErrRecord_cur (e : ErrInfo) (row : Word) : (s.setErrRecord e row).cur = s.cur := rfl
@[simp] theorem State.setErrRecord_resets (e : ErrInfo) (row : Word) : (s.setErrRecord e row).resets = s.resets := rfl
@[simp] theorem State.setErrRecord_inbox (e : ErrInfo) (row : Word) : (s.setErrRecord e row).inbox = s.inbox := rfl
@[simp] theorem State.setErrRecord_responses (e : ErrInfo) (row : Word) : (s.setErrRecord e row).responses = s.responses := rfl

@[simp] theorem State.setCrcState_lineMax (v : Word) : (s.setCrcState v).lineMax = s.lineMax := rfl
@[simp] theorem State.setCrcState_inReset (v : Word) : (s.setCrcState v).inReset = s.inReset := rfl
@[simp] theorem State.setCrcState_arg (v : Word) : (s.setCrcState v).arg = s.arg := rfl
@[simp] theorem State.setCrcState_result (v : Word) : (s.setCrcState v).result = s.result := rfl
@[simp] theorem State.setCrcState_status (v : Word) : (s.setCrcState v).status = s.status := rfl
@[simp] theorem State.setCrcState_errInfo (v : Word) : (s.setCrcState v).errInfo = s.errInfo := rfl
@[simp] theorem State.setCrcState_errRow (v : Word) : (s.setCrcState v).errRow = s.errRow := rfl
@[simp] theorem State.setCrcState_crcState (v : Word) : (s.setCrcState v).crcState = v := rfl
@[simp] theorem State.setCrcState_slWidth (v : Word) : (s.setCrcState v).slWidth = s.slWidth := rfl
@[simp] theorem State.setCrcState_slRow (v : Word) : (s.setCrcState v).slRow = s.slRow := rfl
@[simp] theorem State.setCrcState_slCol (v : Word) : (s.setCrcState v).slCol = s.slCol := rfl
@[simp] theorem State.setCrcState_prev (v : Word) : (s.setCrcState v).prev = s.prev := rfl
@[simp] theorem State.setCrcState_cur (v : Word) : (s.setCrcState v).cur = s.cur := rfl
@[simp] theorem State.setCrcState_resets (v : Word) : (s.setCrcState v).resets = s.resets := rfl
@[simp] theorem State.setCrcState_inbox (v : Word) : (s.setCrcState v).inbox = s.inbox := rfl
@[simp] theorem State.setCrcState_responses (v : Word) : (s.setCrcState v).responses = s.responses := rfl

@[simp] theorem State.setSlWidth_lineMax (v : Word) : (s.setSlWidth v).lineMax = s.lineMax := rfl
@[simp] theorem State.setSlWidth_inReset (v : Word) : (s.setSlWidth v).inReset = s.inReset := rfl
@[simp] theorem State.setSlWidth_arg (v : Word) : (s.setSlWidth v).arg = s.arg := rfl
@[simp] theorem State.setSlWidth_result (v : Word) : (s.setSlWidth v).result = s.result := rfl
@[simp] theorem State.setSlWidth_status (v : Word) : (s.setSlWidth v).status = s.status := rfl
@[simp] theorem State.setSlWidth_errInfo (v : Word) : (s.setSlWidth v).errInfo = s.errInfo := rfl
@[simp] theorem State.setSlWidth_errRow (v : Word) : (s.setSlWidth v).errRow = s.errRow := rfl
@[simp] theorem State.setSlWidth_crcState (v : Word) : (s.setSlWidth v).crcState = s.crcState := rfl
@[simp] theorem State.setSlWidth_slWidth (v : Word) : (s.setSlWidth v).slWidth = v := rfl
@[simp] theorem State.setSlWidth_slRow (v : Word) : (s.setSlWidth v).slRow = s.slRow := rfl
@[simp] theorem State.setSlWidth_slCol (v : Word) : (s.setSlWidth v).slCol = s.slCol := rfl
@[simp] theorem State.setSlWidth_prev (v : Word) : (s.setSlWidth v).prev = s.prev := rfl
@[simp] theorem State.setSlWidth_cur (v : Word) : (s.setSlWidth v).cur = s.cur := rfl
@[simp] theorem State.setSlWidth_resets (v : Word) : (s.setSlWidth v).resets = s.resets := rfl
@[simp] theorem State.setSlWidth_inbox (v : Word) : (s.setSlWidth v).inbox = s.inbox := rfl
@[simp] theorem State.setSlWidth_responses (v : Word) : (s.setSlWidth v).responses = s.responses := rfl

@[simp] theorem State.setSlRow_lineMax (v : Word) : (s.setSlRow v).lineMax = s.lineMax := rfl
@[simp] theorem State.setSlRow_inReset (v : Word) : (s.setSlRow v).inReset = s.inReset := rfl
@[simp] theorem State.setSlRow_arg (v : Word) : (s.setSlRow v).arg = s.arg := rfl
@[simp] theorem State.setSlRow_result (v : Word) : (s.setSlRow v).result = s.result := rfl
@[simp] theorem State.setSlRow_status (v : Word) : (s.setSlRow v).status = s.status := rfl
@[simp] theorem State.setSlRow_errInfo (v : Word) : (s.setSlRow v).errInfo = s.errInfo := rfl
@[simp] theorem State.setSlRow_errRow (v : Word) : (s.setSlRow v).errRow = s.errRow := rfl
@[simp] theorem State.setSlRow_crcState (v : Word) : (s.setSlRow v).crcState = s.crcState := rfl
@[simp] theorem State.setSlRow_slWidth (v : Word) : (s.setSlRow v).slWidth = s.slWidth := rfl
@[simp] theorem State.setSlRow_slRow (v : Word) : (s.setSlRow v).slRow = v := rfl
@[simp] theorem State.setSlRow_slCol (v : Word) : (s.setSlRow v).slCol = s.slCol := rfl
@[simp] theorem State.setSlRow_prev (v : Word) : (s.setSlRow v).prev = s.prev := rfl
@[simp] theorem State.setSlRow_cur (v : Word) : (s.setSlRow v).cur = s.cur := rfl
@[simp] theorem State.setSlRow_resets (v : Word) : (s.setSlRow v).resets = s.resets := rfl
@[simp] theorem State.setSlRow_inbox (v : Word) : (s.setSlRow v).inbox = s.inbox := rfl
@[simp] theorem State.setSlRow_responses (v : Word) : (s.setSlRow v).responses = s.responses := rfl

@[simp] theorem State.setSlCol_lineMax (v : Word) : (s.setSlCol v).lineMax = s.lineMax := rfl
@[simp] theorem State.setSlCol_inReset (v : Word) : (s.setSlCol v).inReset = s.inReset := rfl
@[simp] theorem State.setSlCol_arg (v : Word) : (s.setSlCol v).arg = s.arg := rfl
@[simp] theorem State.setSlCol_result (v : Word) : (s.setSlCol v).result = s.result := rfl
@[simp] theorem State.setSlCol_status (v : Word) : (s.setSlCol v).status = s.status := rfl
@[simp] theorem State.setSlCol_errInfo (v : Word) : (s.setSlCol v).errInfo = s.errInfo := rfl
@[simp] theorem State.setSlCol_errRow (v : Word) : (s.setSlCol v).errRow = s.errRow := rfl
@[simp] theorem State.setSlCol_crcState (v : Word) : (s.setSlCol v).crcState = s.crcState := rfl
@[simp] theorem State.setSlCol_slWidth (v : Word) : (s.setSlCol v).slWidth = s.slWidth := rfl
@[simp] theorem State.setSlCol_slRow (v : Word) : (s.setSlCol v).slRow = s.slRow := rfl
@[simp] theorem State.setSlCol_slCol (v : Word) : (s.setSlCol v).slCol = v := rfl
@[simp] theorem State.setSlCol_prev (v : Word) : (s.setSlCol v).prev = s.prev := rfl
@[simp] theorem State.setSlCol_cur (v : Word) : (s.setSlCol v).cur = s.cur := rfl
@[simp] theorem State.setSlCol_resets (v : Word) : (s.setSlCol v).resets = s.resets := rfl
@[simp] theorem State.setSlCol_inbox (v : Word) : (s.setSlCol v).inbox = s.inbox := rfl
@[simp] theorem State.setSlCol_responses (v : Word) : (s.setSlCol v).responses = s.responses := rfl

@[simp] theorem State.setPrev_lineMax (m : Memory) : (s.setPrev m).lineMax = s.lineMax := rfl
@[simp] theorem State.setPrev_inReset (m : Memory) : (s.setPrev m).inReset = s.inReset := rfl
@[simp] theorem State.setPrev_arg (m : Memory) : (s.setPrev m).arg = s.arg := rfl
@[simp] theorem State.setPrev_result (m : Memory) : (s.setPrev m).result = s.result := rfl
@[simp] theorem State.setPrev_status (m : Memory) : (s.setPrev m).status = s.status := rfl
@[simp] theorem State.setPrev_errInfo (m : Memory) : (s.setPrev m).errInfo = s.errInfo := rfl
@[simp] theorem State.setPrev_errRow (m : Memory) : (s.setPrev m).errRow = s.errRow := rfl
@[simp] theorem State.setPrev_crcState (m : Memory) : (s.setPrev m).crcState = s.crcState := rfl
@[simp] theorem State.setPrev_slWidth (m : Memory) : (s.setPrev m).slWidth = s.slWidth := rfl
@[simp] theorem State.setPrev_slRow (m : Memory) : (s.setPrev m).slRow = s.slRow := rfl
@[simp] theorem State.setPrev_slCol (m : Memory) : (s.setPrev m).slCol = s.slCol := rfl
@[simp] theorem State.setPrev_prev (m : Memory) : (s.setPrev m).prev = m := rfl
@[simp] theorem State.setPrev_cur (m : Memory) : (s.setPrev m).cur = s.cur := rfl
@[simp] theorem State.setPrev_resets (m : Memory) : (s.setPrev m).resets = s.resets := rfl
@[simp] theorem State.setPrev_inbox (m : Memory) : (s.setPrev m).inbox = s.inbox := rfl
@[simp] theorem State.setPrev_responses (m : Memory) : (s.setPrev m).responses = s.responses := rfl

@[simp] theorem State.setCur_lineMax (m : Memory) : (s.setCur m).lineMax = s.lineMax := rfl
@[simp] theorem State.setCur_inReset (m : Memory) : (s.setCur m).inReset = s.inReset := rfl
@[simp] theorem State.setCur_arg (m : Memory) : (s.setCur m).arg = s.arg := rfl
@[simp] theorem State.setCur_result (m : Memory) : (s.setCur m).result = s.result := rfl
@[simp] theorem State.setCur_status (m : Memory) : (s.setCur m).status = s.status := rfl
@[simp] theorem State.setCur_errInfo (m : Memory) : (s.setCur m).errInfo = s.errInfo := rfl
@[simp] theorem State.setCur_errRow (m : Memory) : (s.setCur m).errRow = s.errRow := rfl
@[simp] theorem State.setCur_crcState (m : Memory) : (s.setCur m).crcState = s.crcState := rfl
@[simp] theorem State.setCur_slWidth (m : Memory) : (s.setCur m).slWidth = s.slWidth := rfl
@[simp] theorem State.setCur_slRow (m : Memory) : (s.setCur m).slRow = s.slRow := rfl
@[simp] theorem State.setCur_slCol (m : Memory) : (s.setCur m).slCol = s.slCol := rfl
@[simp] theorem State.setCur_prev (m : Memory) : (s.setCur m).prev = s.prev := rfl
@[simp] theorem State.setCur_cur (m : Memory) : (s.setCur m).cur = m := rfl
@[simp] theorem State.setCur_resets (m : Memory) : (s.setCur m).resets = s.resets := rfl
@[simp] theorem State.setCur_inbox (m : Memory) : (s.setCur m).inbox = s.inbox := rfl
@[simp] theorem State.setCur_responses (m : Memory) : (s.setCur m).responses = s.responses := rfl

@[simp] theorem State.setInReset_lineMax (b : Bool) : (s.setInReset b).lineMax = s.lineMax := rfl
@[simp] theorem State.setInReset_inReset (b : Bool) : (s.setInReset b).inReset = b := rfl
@[simp] theorem State.setInReset_arg (b : Bool) : (s.setInReset b).arg = s.arg := rfl
@[simp] theorem State.setInReset_result (b : Bool) : (s.setInReset b).result = s.result := rfl
@[simp] theorem State.setInReset_status (b : Bool) : (s.setInReset b).status = s.status := rfl
@[simp] theorem State.setInReset_errInfo (b : Bool) : (s.setInReset b).errInfo = s.errInfo := rfl
@[simp] theorem State.setInReset_errRow (b : Bool) : (s.setInReset b).errRow = s.errRow := rfl
@[simp] theorem State.setInReset_crcState (b : Bool) : (s.setInReset b).crcState = s.crcState := rfl
@[simp] theorem State.setInReset_slWidth (b : Bool) : (s.setInReset b).slWidth = s.slWidth := rfl
@[simp] theorem State.setInReset_slRow (b : Bool) : (s.setInReset b).slRow = s.slRow := rfl
@[simp] theorem State.setInReset_slCol (b : Bool) : (s.setInReset b).slCol = s.slCol := rfl
@[simp] theorem State.setInReset_prev (b : Bool) : (s.setInReset b).prev = s.prev := rfl
@[simp] theorem State.setInReset_cur (b : Bool) : (s.setInReset b).cur = s.cur := rfl
@[simp] theorem State.setInReset_resets (b : Bool) : (s.setInReset b).resets = s.resets := rfl
@[simp] theorem State.setInReset_inbox (b : Bool) : (s.setInReset b).inbox = s.inbox := rfl
@[simp] theorem State.setInReset_responses (b : Bool) : (s.setInReset b).responses = s.responses := rfl

@[simp] theorem State.setInbox_lineMax (es : List BusEvent) : (s.setInbox es).lineMax = s.lineMax := rfl
@[simp] theorem State.setInbox_inReset (es : List BusEvent) : (s.setInbox es).inReset = s.inReset := rfl
@[simp] theorem State.setInbox_arg (es : List BusEvent) : (s.setInbox es).arg = s.arg := rfl
@[simp] theorem State.setInbox_result (es : List BusEvent) : (s.setInbox es).result = s.result := rfl
@[simp] theorem State.setInbox_status (es : List BusEvent) : (s.setInbox es).status = s.status := rfl
@[simp] theorem State.setInbox_errInfo (es : List BusEvent) : (s.setInbox es).errInfo = s.errInfo := rfl
@[simp] theorem State.setInbox_errRow (es : List BusEvent) : (s.setInbox es).errRow = s.errRow := rfl
@[simp] theorem State.setInbox_crcState (es : List BusEvent) : (s.setInbox es).crcState = s.crcState := rfl
@[simp] theorem State.setInbox_slWidth (es : List BusEvent) : (s.setInbox es).slWidth = s.slWidth := rfl
@[simp] theorem State.setInbox_slRow (es : List BusEvent) : (s.setInbox es).slRow = s.slRow := rfl
@[simp] theorem State.setInbox_slCol (es : List BusEvent) : (s.setInbox es).slCol = s.slCol := rfl
@[simp] theorem State.setInbox_prev (es : List BusEvent) : (s.setInbox es).prev = s.prev := rfl
@[simp] theorem State.setInbox_cur (es : List BusEvent) : (s.setInbox es).cur = s.cur := rfl
@[simp] theorem State.setInbox_resets (es : List BusEvent) : (s.setInbox es).resets = s.resets := rfl
@[simp] theorem State.setInbox_inbox (es : List BusEvent) : (s.setInbox es).inbox = es := rfl
@[simp] theorem State.setInbox_responses (es : List BusEvent) : (s.setInbox es).responses = s.responses := rfl

@[simp] theorem State.respond_lineMax (r : Response) : (s.respond r).lineMax = s.lineMax := rfl
@[simp] theorem State.respond_inReset (r : Response) : (s.respond r).inReset = s.inReset := rfl
@[simp] theorem State.respond_arg (r : Response) : (s.respond r).arg = s.arg := rfl
@[simp] theorem State.respond_result (r : Response) : (s.respond r).result = s.result := rfl
@[simp] theorem State.respond_status (r : Response) : (s.respond r).status = s.status := rfl
@[simp] theorem State.respond_errInfo (r : Response) : (s.respond r).errInfo = s.errInfo := rfl
@[simp] theorem State.respond_errRow (r : Response) : (s.respond r).errRow = s.errRow := rfl
@[simp] theorem State.respond_crcState (r : Response) : (s.respond r).crcState = s.crcState := rfl
@[simp] theorem State.respond_slWidth (r : Response) : (s.respond r).slWidth = s.slWidth := rfl
@[simp] theorem State.respond_slRow (r : Response) : (s.respond r).slRow = s.slRow := rfl
@[simp] theorem State.respond_slCol (r : Response) : (s.respond r).slCol = s.slCol := rfl
@[simp] theorem State.respond_prev (r : Response) : (s.respond r).prev = s.prev := rfl
@[simp] theorem State.respond_cur (r : Response) : (s.respond r).cur = s.cur := rfl
@[simp] theorem State.respond_resets (r : Response) : (s.respond r).resets = s.resets := rfl
@[simp] theorem State.respond_inbox (r : Response) : (s.respond r).inbox = s.inbox := rfl
@[simp] theorem State.respond_responses (r : Response) : (s.respond r).responses = r :: s.responses := rfl

variable (st : Status)

@[simp] theorem Status.setErr_err (b : Bool) : (st.setErr b).err = b := rfl
@[simp] theorem Status.setErr_crcMatch (b : Bool) : (st.setErr b).crcMatch = st.crcMatch := rfl
@[simp] theorem Status.setErr_slActive (b : Bool) : (st.setErr b).slActive = st.slActive := rfl
@[simp] theorem Status.setErr_dir (b : Bool) : (st.setErr b).dir = st.dir := rfl
@[simp] theorem Status.setErr_hasRow (b : Bool) : (st.setErr b).hasRow = st.hasRow := rfl
@[simp] theorem Status.setErr_bpp (b : Bool) : (st.setErr b).bpp = st.bpp := rfl
@[simp] theorem Status.setErr_ftype (b : Bool) : (st.setErr b).ftype = st.ftype := rfl

@[simp] theorem Status.setCrcMatch_err (b : Bool) : (st.setCrcMatch b).err = st.err := rfl
@[simp] theorem Status.setCrcMatch_crcMatch (b : Bool) : (st.setCrcMatch b).crcMatch = b := rfl
@[simp] theorem Status.setCrcMatch_slActive (b : Bool) : (st.setCrcMatch b).slActive = st.slActive := rfl
@[simp] theorem Status.setCrcMatch_dir (b : Bool) : (st.setCrcMatch b).dir = st.dir := rfl
@[simp] theorem Status.setCrcMatch_hasRow (b : Bool) : (st.setCrcMatch b).hasRow = st.hasRow := rfl
@[simp] theorem Status.setCrcMatch_bpp (b : Bool) : (st.setCrcMatch b).bpp = st.bpp := rfl
@[simp] theorem Status.setCrcMatch_ftype (b : Bool) : (st.setCrcMatch b).ftype = st.ftype := rfl

@[simp] theorem Status.setSlActive_err (b : Bool) : (st.setSlActive b).err = st.err := rfl
@[simp] theorem Status.setSlActive_crcMatch (b : Bool) : (st.setSlActive b).crcMatch = st.crcMatch := rfl
@[simp] theorem Status.setSlActive_slActive (b : Bool) : (st.setSlActive b).slActive = b := rfl
@[simp] theorem Status.setSlActive_dir (b : Bool) : (st.setSlActive b).dir = st.dir := rfl
@[simp] theorem Status.setSlActive_hasRow (b : Bool) : (st.setSlActive b).hasRow = st.hasRow := rfl
@[simp] theorem Status.setSlActive_bpp (b : Bool) : (st.setSlActive b).bpp = st.bpp := rfl
@[simp] theorem Status.setSlActive_ftype (b : Bool) : (st.setSlActive b).ftype = st.ftype := rfl

@[simp] theorem Status.rowDone_err : st.rowDone.err = st.err := rfl
@[simp] theorem Status.rowDone_crcMatch : st.rowDone.crcMatch = st.crcMatch := rfl
@[simp] theorem Status.rowDone_slActive : st.rowDone.slActive = st.slActive := rfl
@[simp] theorem Status.rowDone_dir : st.rowDone.dir = st.dir := rfl
@[simp] theorem Status.rowDone_hasRow : st.rowDone.hasRow = true := rfl
@[simp] theorem Status.rowDone_bpp : st.rowDone.bpp = st.bpp := rfl
@[simp] theorem Status.rowDone_ftype : st.rowDone.ftype = st.ftype := rfl

@[simp] theorem Status.setFtype_err (ft : FilterType) : (st.setFtype ft).err = st.err := rfl
@[simp] theorem Status.setFtype_crcMatch (ft : FilterType) : (st.setFtype ft).crcMatch = st.crcMatch := rfl
@[simp] theorem Status.setFtype_slActive (ft : FilterType) : (st.setFtype ft).slActive = st.slActive := rfl
@[simp] theorem Status.setFtype_dir (ft : FilterType) : (st.setFtype ft).dir = st.dir := rfl
@[simp] theorem Status.setFtype_hasRow (ft : FilterType) : (st.setFtype ft).hasRow = st.hasRow := rfl
@[simp] theorem Status.setFtype_bpp (ft : FilterType) : (st.setFtype ft).bpp = st.bpp := rfl
@[simp] theorem Status.setFtype_ftype (ft : FilterType) : (st.setFtype ft).ftype = ft := rfl

@[simp] theorem Status.openSession_err (d : Direction) (p : Bpp) : (st.openSession d p).err = st.err := rfl
@[simp] theorem Status.openSession_crcMatch (d : Direction) (p : Bpp) : (st.openSession d p).crcMatch = st.crcMatch := rfl
@[simp] theorem Status.openSession_slActive (d : Direction) (p : Bpp) : (st.openSession d p).slActive = true := rfl
@[simp] theorem Status.openSession_dir (d : Direction) (p : Bpp) : (st.openSession d p).dir = d := rfl
@[simp] theorem Status.openSession_hasRow (d : Direction) (p : Bpp) : (st.openSession d p).hasRow = false := rfl
@[simp] theorem Status.openSession_bpp (d : Direction) (p : Bpp) : (st.openSession d p).bpp = p := rfl
@[simp] theorem Status.openSession_ftype (d : Direction) (p : Bpp) : (st.openSession d p).ftype = .none := rfl

variable (opc d0 d1 : Byte) (code : ErrCode) (row : Word)

@[simp] theorem raise_lineMax : (raise opc code d0 d1 row s).lineMax = s.lineMax := rfl
@[simp] theorem raise_inReset : (raise opc code d0 d1 row s).inReset = s.inReset := rfl
@[simp] theorem raise_arg : (raise opc code d0 d1 row s).arg = s.arg := rfl
@[simp] theorem raise_result : (raise opc code d0 d1 row s).result = s.result := rfl
@[simp] theorem raise_status : (raise opc code d0 d1 row s).status = s.status.setErr true := rfl
@[simp] theorem raise_errInfo : (raise opc code d0 d1 row s).errInfo = { code := code, d0 := d0, d1 := d1, opc := opc } := rfl
@[simp] theorem raise_errRow : (raise opc code d0 d1 row s).errRow = row := rfl
@[simp] theorem raise_crcState : (raise opc code d0 d1 row s).crcState = s.crcState := rfl
@[simp] theorem raise_slWidth : (raise opc code d0 d1 row s).slWidth = s.slWidth := rfl
@[simp] theorem raise_slRow : (raise opc code d0 d1 row s).slRow = s.slRow := rfl
@[simp] theorem raise_slCol : (raise opc code d0 d1 row s).slCol = s.slCol := rfl
@[simp] theorem raise_prev : (raise opc code d0 d1 row s).prev = s.prev := rfl
@[simp] theorem raise_cur : (raise opc code d0 d1 row s).cur = s.cur := rfl
@[simp] theorem raise_resets : (raise opc code d0 d1 row s).resets = s.resets := rfl
@[simp] theorem raise_inbox : (raise opc code d0 d1 row s).inbox = s.inbox := rfl
@[simp] theorem raise_responses : (raise opc code d0 d1 row s).responses = s.responses := rfl

@[simp] theorem clearErr_lineMax : (clearErr s).lineMax = s.lineMax := rfl
@[simp] theorem clearErr_inReset : (clearErr s).inReset = s.inReset := rfl
@[simp] theorem clearErr_arg : (clearErr s).arg = s.arg := rfl
@[simp] theorem clearErr_result : (clearErr s).result = s.result := rfl
@[simp] theorem clearErr_status : (clearErr s).status = s.status.setErr false := rfl
@[simp] theorem clearErr_errInfo : (clearErr s).errInfo = ErrInfo.reset := rfl
@[simp] theorem clearErr_errRow : (clearErr s).errRow = 0 := rfl
@[simp] theorem clearErr_crcState : (clearErr s).crcState = s.crcState := rfl
@[simp] theorem clearErr_slWidth : (clearErr s).slWidth = s.slWidth := rfl
@[simp] theorem clearErr_slRow : (clearErr s).slRow = s.slRow := rfl
@[simp] theorem clearErr_slCol : (clearErr s).slCol = s.slCol := rfl
@[simp] theorem clearErr_prev : (clearErr s).prev = s.prev := rfl
@[simp] theorem clearErr_cur : (clearErr s).cur = s.cur := rfl
@[simp] theorem clearErr_resets : (clearErr s).resets = s.resets := rfl
@[simp] theorem clearErr_inbox : (clearErr s).inbox = s.inbox := rfl
@[simp] theorem clearErr_responses : (clearErr s).responses = s.responses := rfl

@[simp] theorem resetBlock_lineMax : (resetBlock s).lineMax = s.lineMax := rfl
@[simp] theorem resetBlock_inReset : (resetBlock s).inReset = s.inReset := rfl
@[simp] theorem resetBlock_arg : (resetBlock s).arg = 0 := rfl
@[simp] theorem resetBlock_result : (resetBlock s).result = 0 := rfl
@[simp] theorem resetBlock_status : (resetBlock s).status = Status.reset := rfl
@[simp] theorem resetBlock_errInfo : (resetBlock s).errInfo = ErrInfo.reset := rfl
@[simp] theorem resetBlock_errRow : (resetBlock s).errRow = 0 := rfl
@[simp] theorem resetBlock_crcState : (resetBlock s).crcState = 0xFFFFFFFF := rfl
@[simp] theorem resetBlock_slWidth : (resetBlock s).slWidth = 0 := rfl
@[simp] theorem resetBlock_slRow : (resetBlock s).slRow = 0 := rfl
@[simp] theorem resetBlock_slCol : (resetBlock s).slCol = 0 := rfl
@[simp] theorem resetBlock_prev : (resetBlock s).prev = [] := rfl
@[simp] theorem resetBlock_cur : (resetBlock s).cur = [] := rfl
@[simp] theorem resetBlock_resets : (resetBlock s).resets = s.resets + 1 := rfl
@[simp] theorem resetBlock_inbox : (resetBlock s).inbox = s.inbox := rfl
@[simp] theorem resetBlock_responses : (resetBlock s).responses = s.responses := rfl

end Sys2Proof.Machine
end

