-- ==== Sys2Proof/Laws/Bus.lean ====
section
/-! SUPPORT. What one step and one event do, and which registers a bus read depends on. -/

namespace Sys2Proof.Machine

theorem step_idle {s : State} (h : s.inbox = []) : step s = .next s := by simp [step, h]

theorem step_event {s : State} {e : BusEvent} {rest : List BusEvent} (h : s.inbox = e :: rest) :
    step s = deliver e (s.setInbox rest) := by simp [step, h]

/-- A read out of reset (R45). -/
theorem deliver_read {s : State} (h : s.inReset = false) (width : Nat) (off : BitVec 8) :
    deliver (.read width off) s = .next (s.respond (.readDone (busRead width off s).1 (busRead width off s).2)) := by
  simp [deliver, h]

/-- A write out of reset (R46). -/
theorem deliver_write {s : State} (h : s.inReset = false) (width : Nat) (off : BitVec 8) (data : Word) :
    deliver (.write width off data) s = answerWrite (busWriteResp width off) (busWrite width off data s) := by
  simp [deliver, h]

/-- An aligned 32-bit access is accepted, any other refused (R47). -/
theorem accessAccepted_iff (width : Nat) (off : BitVec 8) :
    accessAccepted width off = true ↔ width = 32 ∧ off.toNat % 4 = 0 := by
  simp [accessAccepted]

/-- Nothing is mapped from 0x34 up (R48). -/
theorem atOffset_unmapped {off : BitVec 8} : 0x34 ≤ off.toNat → Reg.atOffset off = none := by
  revert off; decide

theorem atOffset_offset (r : Reg) : Reg.atOffset r.offset = some r := by cases r <;> decide

theorem offset_of_atOffset {off : BitVec 8} {r : Reg} (h : Reg.atOffset off = some r) : r.offset = off := by
  simpa using List.find?_some h

/-- A bus read does not see what waits at the port or what was answered. -/
theorem busRead_setInbox (width : Nat) (off : BitVec 8) (s : State) (es : List BusEvent) :
    busRead width off (s.setInbox es) = busRead width off s := rfl

theorem busRead_respond (width : Nat) (off : BitVec 8) (s : State) (r : Response) :
    busRead width off (s.respond r) = busRead width off s := rfl

/-- A write to `CMD` executes the word (R46). -/
theorem busWrite_cmd (w : Word) (s : State) : busWrite 32 Reg.cmd.offset w s = execute w s := rfl

/-- A write to `ARG` stores it, whatever error stands (R24, R49). -/
theorem busWrite_arg (v : Word) (s : State) : busWrite 32 Reg.arg.offset v s = .next (s.setArg v) := rfl

end Sys2Proof.Machine
end

