-- ==== Sys2Proof/Laws/Decode.lean ====
section
/-! SUPPORT. The fields of encoded words, and what it means that a row of the opcode map selects a word. -/

namespace Sys2Proof

/-! ### The bits of each format -/

theorem getLsbD_encodeN (opc : Byte) (i : Nat) :
    (encodeN opc).getLsbD i = if i < 24 then false else opc.getLsbD (i - 24) := by
  refine (BitVec.getLsbD_append (x := opc) (y := 0#24) (i := i)).trans ?_
  by_cases h : i < 24 <;> simp [h]

theorem getLsbD_encodeI8 (opc imm : Byte) (i : Nat) :
    (encodeI8 opc imm).getLsbD i =
      if i < 8 then imm.getLsbD i else if i < 24 then false else opc.getLsbD (i - 24) := by
  refine (BitVec.getLsbD_append (x := opc ++ 0#16) (y := imm) (i := i)).trans ?_
  rw [BitVec.getLsbD_append]
  by_cases h : i < 8
  · simp [h]
  · by_cases h' : i < 24
    · simp [h, h']; omega
    · simp [h, h', show ¬ i - 8 < 16 by omega, show i - 8 - 16 = i - 24 by omega]

theorem getLsbD_encodeP (opc c b a : Byte) (i : Nat) :
    (encodeP opc c b a).getLsbD i =
      if i < 8 then a.getLsbD i else if i < 16 then b.getLsbD (i - 8)
      else if i < 24 then c.getLsbD (i - 16) else opc.getLsbD (i - 24) := by
  refine (BitVec.getLsbD_append (x := opc ++ c ++ b) (y := a) (i := i)).trans ?_
  rw [BitVec.getLsbD_append, BitVec.getLsbD_append]
  simp only [Nat.sub_sub, show (i - 8 < 8 ↔ i < 16) by omega, show (i - (8 + 8) < 8 ↔ i < 24) by omega]

theorem getLsbD_encodeB (opc : Byte) (dir : Direction) (bd ct : Byte) (i : Nat) :
    (encodeB opc dir bd ct).getLsbD i =
      if i < 8 then ct.getLsbD i else if i < 16 then bd.getLsbD (i - 8)
      else if i < 17 then dir.bit.getLsbD (i - 16) else if i < 24 then false else opc.getLsbD (i - 24) := by
  refine (BitVec.getLsbD_append (x := opc ++ 0#7 ++ dir.bit ++ bd) (y := ct) (i := i)).trans ?_
  rw [BitVec.getLsbD_append, BitVec.getLsbD_append, BitVec.getLsbD_append]
  simp only [Nat.sub_sub, show (i - 8 < 8 ↔ i < 16) by omega, show (i - (8 + 8) < 1 ↔ i < 17) by omega,
    show (i - (8 + 8 + 1) < 7 ↔ i < 24) by omega, BitVec.getLsbD_zero]

/-- Two words with the same 32 bits are the same. -/
theorem word_ext {v w : Word} (h : ∀ i, i < 32 → v.getLsbD i = w.getLsbD i) : v = w :=
  BitVec.eq_of_getLsbD_eq h

/-! ### The operand fields of encoded words -/

theorem fieldLow_encodeI8 (opc imm : Byte) : fieldLow (encodeI8 opc imm) = imm := by
  ext i hi
  simp [fieldLow, getLsbD_encodeI8, hi]

theorem fieldLow_encodeP (opc c b a : Byte) : fieldLow (encodeP opc c b a) = a := by
  ext i hi
  simp [fieldLow, getLsbD_encodeP, hi]

theorem fieldMid_encodeP (opc c b a : Byte) : fieldMid (encodeP opc c b a) = b := by
  ext i hi
  simp [fieldMid, getLsbD_encodeP, show ¬ 8 + i < 8 by omega, show 8 + i < 16 by omega,
    BitVec.getLsbD_eq_getElem hi]

theorem fieldHigh_encodeP (opc c b a : Byte) : fieldHigh (encodeP opc c b a) = c := by
  ext i hi
  simp [fieldHigh, getLsbD_encodeP, show ¬ 16 + i < 8 by omega, show 16 + i < 24 by omega,
    BitVec.getLsbD_eq_getElem hi]

theorem fieldLow_encodeB (opc : Byte) (dir : Direction) (bd ct : Byte) : fieldLow (encodeB opc dir bd ct) = ct := by
  ext i hi
  simp [fieldLow, getLsbD_encodeB, hi]

theorem fieldMid_encodeB (opc : Byte) (dir : Direction) (bd ct : Byte) : fieldMid (encodeB opc dir bd ct) = bd := by
  ext i hi
  simp [fieldMid, getLsbD_encodeB, show ¬ 8 + i < 8 by omega, show 8 + i < 16 by omega,
    BitVec.getLsbD_eq_getElem hi]

theorem fieldDir_encodeB (opc : Byte) (dir : Direction) (bd ct : Byte) : fieldDir (encodeB opc dir bd ct) = dir := by
  simp only [fieldDir, getLsbD_encodeB]
  cases dir <;> simp [Direction.bit]

/-! ### Selection of a row -/

/-- Every mask of the map covers the opcode byte. -/
theorem opcodeByte_mask {r : OpRow} (h : r ∈ opcodeMap) : opcodeByte r.mask = 0xFF := by
  simp only [opcodeMap, List.mem_cons, List.not_mem_nil, or_false] at h
  rcases h with rfl | rfl | rfl | rfl | rfl | rfl | rfl | rfl | rfl | rfl | rfl | rfl | rfl | rfl | rfl | rfl <;> rfl

/-- A row selects only words with its opcode byte. -/
theorem opcodeByte_of_selects {r : OpRow} {w : Word} (h : r ∈ opcodeMap) (hs : r.selects w = true) :
    opcodeByte w = opcodeByte r.pattern := by
  have hm := opcodeByte_mask h
  have e : w &&& r.mask = r.pattern := by simpa [OpRow.selects] using hs
  have e2 := congrArg opcodeByte e
  have e3 : opcodeByte (w &&& r.mask) = opcodeByte w &&& opcodeByte r.mask := BitVec.extractLsb'_and
  rw [e3, hm] at e2
  rw [← e2]
  ext i hi
  have : i = 0 ∨ i = 1 ∨ i = 2 ∨ i = 3 ∨ i = 4 ∨ i = 5 ∨ i = 6 ∨ i = 7 := by omega
  rcases this with rfl | rfl | rfl | rfl | rfl | rfl | rfl | rfl <;> simp

/-- The rows have different opcode bytes. -/
theorem row_of_opcodeByte {r r' : OpRow} (h : r ∈ opcodeMap) (h' : r' ∈ opcodeMap)
    (e : opcodeByte r.pattern = opcodeByte r'.pattern) : r = r' := by
  have key : opcodeMap.Pairwise (fun x y => opcodeByte x.pattern ≠ opcodeByte y.pattern) := by
    simp only [opcodeMap]; decide
  exact List.inj_on_of_nodup_map (f := fun x : OpRow => opcodeByte x.pattern)
    (List.pairwise_map.mpr key) h h' e

/-- A selected word decodes to its row's command. -/
theorem decode_of_selects {r : OpRow} {w : Word} (h : r ∈ opcodeMap) (hs : r.selects w = true) :
    decode w = .command (r.build w) := by
  have hsome : (opcodeMap.find? (fun r => r.selects w)).isSome = true :=
    List.find?_isSome.mpr ⟨r, h, hs⟩
  obtain ⟨r', hr'⟩ := Option.isSome_iff_exists.mp hsome
  have hm := List.mem_of_find?_eq_some hr'
  have hs' : r'.selects w = true := by simpa using List.find?_some hr'
  have : r' = r := row_of_opcodeByte hm h
    ((opcodeByte_of_selects hm hs').symm.trans (opcodeByte_of_selects h hs))
  simp [decode, hr', this]

/-- A decoded command comes from a row that selects the word. -/
theorem decode_command {w : Word} {i : Instr} (h : decode w = .command i) :
    ∃ r ∈ opcodeMap, r.selects w = true ∧ r.build w = i := by
  unfold decode at h
  split at h
  · next r hr =>
    exact ⟨r, List.mem_of_find?_eq_some hr, by simpa using List.find?_some hr, by simpa using h⟩
  · cases h

/-- A word that is no command is selected by no row. -/
theorem decode_illegal {w : Word} {y : Illegal} (h : decode w = .illegal y) :
    y = illegalReason w ∧ ∀ r ∈ opcodeMap, r.selects w = false := by
  unfold decode at h
  split at h
  · cases h
  · next hr =>
    refine ⟨by simpa using h.symm, fun r hm => ?_⟩
    simpa using List.find?_eq_none.mp hr r hm

end Sys2Proof
end

