-- ==== Sys2Proof/Laws/Ops.lean ====
section
/-! SUPPORT. What the shared operations do: the storage of the line buffers, the discard of a command, the pushes. -/

namespace Sys2Proof.Machine

/-! ### The storage of a line buffer -/

/-- Read after write, at the same index and at any other. -/
theorem Memory.stored_store (m : Memory) (a b : Nat) (v : Byte) :
    (m.store a v).stored b = if a = b then some v else m.stored b := by
  induction m with
  | nil => simp [Memory.store, Memory.stored]
  | cons cell m ih =>
    obtain ⟨k, w⟩ := cell
    simp only [Memory.store]
    split
    · simp [Memory.stored]
    · split
      · subst a; by_cases h : k = b <;> simp [Memory.stored, h]
      · simp only [Memory.stored, ih]
        split <;> split <;> simp_all

theorem Memory.mem_store {m : Memory} {a : Nat} {v : Byte} {cell : Host.Cell} (h : cell ∈ m.store a v) :
    cell = (a, v) ∨ cell ∈ m := by
  induction m with
  | nil => simpa [Memory.store] using h
  | cons x m ih =>
    obtain ⟨k, w⟩ := x
    simp only [Memory.store] at h
    split at h
    · simpa using h
    · split at h
      · simp only [List.mem_cons] at h ⊢; tauto
      · simp only [List.mem_cons] at h ⊢; rcases h with h | h
        · exact .inr (.inl h)
        · rcases ih h with h | h
          · exact .inl h
          · exact .inr (.inr h)

/-- Storing a byte keeps the canonical form. -/
theorem Memory.wf_store {m : Memory} (h : m.wf) (a : Nat) (v : Byte) : (m.store a v).wf := by
  induction m with
  | nil => simp [Memory.store]
  | cons x m ih =>
    obtain ⟨k, w⟩ := x
    obtain ⟨hx, hm⟩ := List.pairwise_cons.mp h
    simp only [Memory.store]
    split
    · next hak =>
      refine List.pairwise_cons.mpr ⟨?_, h⟩
      rintro c hc
      rcases List.mem_cons.mp hc with rfl | hc
      · exact hak
      · exact Nat.lt_trans hak (hx c hc)
    · split
      · next _ hak => subst hak; exact List.pairwise_cons.mpr ⟨hx, hm⟩
      · next h1 h2 =>
        refine List.pairwise_cons.mpr ⟨?_, ih hm⟩
        intro c hc
        rcases Memory.mem_store hc with rfl | hc
        · simp only; omega
        · exact hx c hc

theorem Memory.stored_append (m n : Memory) (i : Nat) :
    Memory.stored (m ++ n) i = (Memory.stored m i).or (Memory.stored n i) := by
  induction m with
  | nil => simp [Memory.stored]
  | cons x m ih => obtain ⟨k, w⟩ := x; simp only [List.cons_append, Memory.stored]; split <;> simp [ih]

theorem Memory.stored_map (l : List Nat) (f : Nat → Byte) (i : Nat) :
    Memory.stored (l.map (fun k => (k, f k))) i = if i ∈ l then some (f i) else none := by
  induction l with
  | nil => simp [Memory.stored]
  | cons k l ih =>
    simp only [List.map_cons, Memory.stored, List.mem_cons, ih]
    by_cases h : k = i
    · simp [h]
    · simp [h, Ne.symm h]

theorem Memory.stored_filter (m : Memory) (len i : Nat) (h : len ≤ i) :
    Memory.stored (m.filter (fun c => len ≤ c.1)) i = Memory.stored m i := by
  induction m with
  | nil => simp [Memory.stored]
  | cons x m ih =>
    obtain ⟨k, w⟩ := x
    by_cases hk : len ≤ k
    · simp [hk, Memory.stored, ih]
    · have : k ≠ i := by omega
      simp [hk, Memory.stored, ih, this]

theorem Memory.stored_filter_low (m : Memory) (len i : Nat) (h : i < len) :
    Memory.stored (m.filter (fun c => len ≤ c.1)) i = none := by
  induction m with
  | nil => simp [Memory.stored]
  | cons x m ih =>
    obtain ⟨k, w⟩ := x
    by_cases hk : len ≤ k
    · have : k ≠ i := by omega
      simp [hk, Memory.stored, ih, this]
    · simp [hk, ih]

/-! ### Fields of the session operations -/

section fields
variable (s : State)

@[simp] theorem storeCur_lineMax (i : Nat) (v : Byte) : (s.storeCur i v).lineMax = s.lineMax := rfl
@[simp] theorem storeCur_inReset (i : Nat) (v : Byte) : (s.storeCur i v).inReset = s.inReset := rfl
@[simp] theorem storeCur_arg (i : Nat) (v : Byte) : (s.storeCur i v).arg = s.arg := rfl
@[simp] theorem storeCur_result (i : Nat) (v : Byte) : (s.storeCur i v).result = s.result := rfl
@[simp] theorem storeCur_status (i : Nat) (v : Byte) : (s.storeCur i v).status = s.status := rfl
@[simp] theorem storeCur_errInfo (i : Nat) (v : Byte) : (s.storeCur i v).errInfo = s.errInfo := rfl
@[simp] theorem storeCur_errRow (i : Nat) (v : Byte) : (s.storeCur i v).errRow = s.errRow := rfl
@[simp] theorem storeCur_crcState (i : Nat) (v : Byte) : (s.storeCur i v).crcState = s.crcState := rfl
@[simp] theorem storeCur_slWidth (i : Nat) (v : Byte) : (s.storeCur i v).slWidth = s.slWidth := rfl
@[simp] theorem storeCur_slRow (i : Nat) (v : Byte) : (s.storeCur i v).slRow = s.slRow := rfl
@[simp] theorem storeCur_slCol (i : Nat) (v : Byte) : (s.storeCur i v).slCol = s.slCol := rfl
@[simp] theorem storeCur_prev (i : Nat) (v : Byte) : (s.storeCur i v).prev = s.prev := rfl
@[simp] theorem storeCur_cur (i : Nat) (v : Byte) : (s.storeCur i v).cur = s.cur.store i v := rfl
@[simp] theorem storeCur_resets (i : Nat) (v : Byte) : (s.storeCur i v).resets = s.resets := rfl
@[simp] theorem storeCur_inbox (i : Nat) (v : Byte) : (s.storeCur i v).inbox = s.inbox := rfl
@[simp] theorem storeCur_responses (i : Nat) (v : Byte) : (s.storeCur i v).responses = s.responses := rfl

@[simp] theorem completeRow_lineMax (len : Nat) : (completeRow len s).lineMax = s.lineMax := rfl
@[simp] theorem completeRow_inReset (len : Nat) : (completeRow len s).inReset = s.inReset := rfl
@[simp] theorem completeRow_arg (len : Nat) : (completeRow len s).arg = s.arg := rfl
@[simp] theorem completeRow_result (len : Nat) : (completeRow len s).result = s.result := rfl
@[simp] theorem completeRow_status (len : Nat) : (completeRow len s).status = s.status.rowDone := rfl
@[simp] theorem completeRow_errInfo (len : Nat) : (completeRow len s).errInfo = s.errInfo := rfl
@[simp] theorem completeRow_errRow (len : Nat) : (completeRow len s).errRow = s.errRow := rfl
@[simp] theorem completeRow_crcState (len : Nat) : (completeRow len s).crcState = s.crcState := rfl
@[simp] theorem completeRow_slWidth (len : Nat) : (completeRow len s).slWidth = s.slWidth := rfl
@[simp] theorem completeRow_slRow (len : Nat) : (completeRow len s).slRow = s.slRow + 1 := rfl
@[simp] theorem completeRow_slCol (len : Nat) : (completeRow len s).slCol = 0 := rfl
@[simp] theorem completeRow_prev (len : Nat) : (completeRow len s).prev = s.copiedRow len := rfl
@[simp] theorem completeRow_cur (len : Nat) : (completeRow len s).cur = s.cur := rfl
@[simp] theorem completeRow_resets (len : Nat) : (completeRow len s).resets = s.resets := rfl
@[simp] theorem completeRow_inbox (len : Nat) : (completeRow len s).inbox = s.inbox := rfl
@[simp] theorem completeRow_responses (len : Nat) : (completeRow len s).responses = s.responses := rfl

end fields

/-! ### The line buffers as the rules read them -/

/-- A line byte depends on the two buffers and on the count of resets only. -/
theorem State.lineByte_congr {s t : State} (hp : t.prev = s.prev) (hc : t.cur = s.cur) (hr : t.resets = s.resets)
    (b : LineBuf) (i : Nat) : t.lineByte b i = s.lineByte b i := by
  cases b <;> simp [State.lineByte, State.buffer, hp, hc, hr]

/-- A byte that has been written reads as written. -/
theorem State.lineByte_stored {s : State} {b : LineBuf} {i : Nat} {v : Byte} (h : (s.buffer b).stored i = some v) :
    s.lineByte b i = v := by simp [State.lineByte, h]

theorem State.storeCur_lineByte_cur (s : State) (i j : Nat) (v : Byte) :
    (s.storeCur i v).lineByte .cur j = if i = j then v else s.lineByte .cur j := by
  simp only [State.lineByte, State.buffer, storeCur_cur, storeCur_resets, Memory.stored_store]
  split <;> simp

theorem State.storeCur_lineByte_prev (s : State) (i j : Nat) (v : Byte) :
    (s.storeCur i v).lineByte .prev j = s.lineByte .prev j := rfl

/-- `PREV` after a row is copied: the row, then what was there (R111). -/
theorem State.stored_copiedRow (s : State) (len i : Nat) :
    Memory.stored (s.copiedRow len) i = if i < len then some (s.lineByte .cur i) else s.prev.stored i := by
  simp only [State.copiedRow, Memory.stored_append, Memory.stored_map, List.mem_range]
  by_cases h : i < len
  · simp [h]
  · simp [h, Memory.stored_filter _ _ _ (Nat.le_of_not_lt h)]

theorem State.wf_copiedRow {s : State} (h : s.prev.wf) (len : Nat) : Memory.wf (s.copiedRow len) := by
  refine List.pairwise_append.mpr ⟨?_, h.filter _, ?_⟩
  · exact List.pairwise_map.mpr List.pairwise_lt_range
  · intro x hx y hy
    simp only [List.mem_map, List.mem_range] at hx
    obtain ⟨i, hi, rfl⟩ := hx
    have := List.mem_filter.mp hy
    simp only [decide_eq_true_eq] at this
    exact Nat.lt_of_lt_of_le hi this.2

theorem State.mem_copiedRow {s : State} {len : Nat} {cell : Host.Cell} (h : cell ∈ s.copiedRow len) :
    cell.1 < len ∨ cell ∈ s.prev := by
  simp only [State.copiedRow, List.mem_append, List.mem_map, List.mem_range, List.mem_filter] at h
  rcases h with ⟨i, hi, rfl⟩ | h
  · exact .inl hi
  · exact .inr h.1

theorem completeRow_lineByte_prev (s : State) (len i : Nat) :
    (completeRow len s).lineByte .prev i = if i < len then s.lineByte .cur i else s.lineByte .prev i := by
  simp only [State.lineByte, State.buffer, completeRow_prev, completeRow_resets, State.stored_copiedRow]
  split <;> simp

theorem completeRow_lineByte_cur (s : State) (len i : Nat) :
    (completeRow len s).lineByte .cur i = s.lineByte .cur i := rfl

/-! ### The discard rule -/

theorem unlessErr_of_err {s : State} (h : s.status.err = true) (f : State → Result) : unlessErr s f = .next s := by
  simp [unlessErr, h]

theorem unlessErr_of_ok {s : State} (h : s.status.err = false) (f : State → Result) : unlessErr s f = f s := by
  simp [unlessErr, h]

/-! ### What a push can do -/

/-- The dispatch of R109 and R110. -/
theorem pushByte_decode {s : State} (h : s.status.dir = .decode) (opc v : Byte) :
    pushByte opc v s = pushDecode opc v s := by simp [pushByte, h]

theorem pushByte_encode {s : State} (h : s.status.dir = .encode) (opc v : Byte) :
    pushByte opc v s = pushEncode v s := by simp [pushByte, h]

theorem pushDecode_filter {s : State} (h : s.slCol = 0) (opc v : Byte) :
    pushDecode opc v s = pushFilterByte opc v s := if_pos h

theorem pushDecode_sample {s : State} (h : s.slCol ≠ 0) (opc v : Byte) :
    pushDecode opc v s = pushSample v s := if_neg h

/-- A register is 0 exactly when its number is. -/
theorem word_eq_zero_iff (w : Word) : w = 0 ↔ w.toNat = 0 :=
  ⟨fun h => by rw [h]; rfl, fun h => BitVec.eq_of_toNat_eq (by simpa using h)⟩

/-- A filter-type byte is taken, or aborts the session with `E_FILTER` (R110). -/
theorem pushFilterByte_cases (opc v : Byte) (s : State) :
    (∃ t, FilterType.ofByte v = some t ∧
        pushFilterByte opc v s = .taken ((s.setStatus (s.status.setFtype t)).setSlCol 1)) ∨
    (FilterType.ofByte v = Option.none ∧
        pushFilterByte opc v s = .failed ((raise opc .filter v 0 s.slRow s).setStatus
          ((s.status.setErr true).setSlActive false))) := by
  unfold pushFilterByte
  cases h : FilterType.ofByte v with
  | none => exact .inr ⟨rfl, rfl⟩
  | some t => exact .inl ⟨t, rfl, rfl⟩

/-- A sample inside the line buffer is stored; it completes the row or moves to the next column (R111). -/
theorem pushSample_cases (v : Byte) (s : State) :
    (s.capacity ≤ s.slCol.toNat - 1 ∧ pushSample v s = .stopped .outsideLineBuffer) ∨
    (s.slCol.toNat - 1 < s.capacity ∧ s.slCol.toNat = s.rowlen ∧
      pushSample v s = .taken (completeRow s.rowlen
        (s.storeCur (s.slCol.toNat - 1) (s.reconstructed (s.slCol.toNat - 1) v)))) ∨
    (s.slCol.toNat - 1 < s.capacity ∧ s.slCol.toNat ≠ s.rowlen ∧
      pushSample v s = .taken ((s.storeCur (s.slCol.toNat - 1) (s.reconstructed (s.slCol.toNat - 1) v)).setSlCol
        (s.slCol + 1))) := by
  unfold pushSample
  by_cases h1 : s.capacity ≤ s.slCol.toNat - 1
  · exact .inl ⟨h1, by simp [h1]⟩
  · refine .inr ?_
    by_cases h2 : s.slCol.toNat = s.rowlen
    · exact .inl ⟨Nat.lt_of_not_le h1, h2, by simp only [if_neg h1, if_pos h2]⟩
    · exact .inr ⟨Nat.lt_of_not_le h1, h2, by simp only [if_neg h1, if_neg h2]⟩

/-- A raster byte inside the line buffer is stored; it completes the row or moves to the next column (R114). -/
theorem pushEncode_cases (v : Byte) (s : State) :
    (s.capacity ≤ s.slCol.toNat ∧ pushEncode v s = .stopped .outsideLineBuffer) ∨
    (s.slCol.toNat < s.capacity ∧ s.slCol.toNat + 1 = 4 * s.slWidth.toNat ∧
      pushEncode v s = .taken (completeRow (4 * s.slWidth.toNat) (s.storeCur s.slCol.toNat v))) ∨
    (s.slCol.toNat < s.capacity ∧ s.slCol.toNat + 1 ≠ 4 * s.slWidth.toNat ∧
      pushEncode v s = .taken ((s.storeCur s.slCol.toNat v).setSlCol (s.slCol + 1))) := by
  unfold pushEncode
  by_cases h1 : s.capacity ≤ s.slCol.toNat
  · exact .inl ⟨h1, by simp [h1]⟩
  · refine .inr ?_
    by_cases h2 : s.slCol.toNat + 1 = 4 * s.slWidth.toNat
    · exact .inl ⟨Nat.lt_of_not_le h1, h2, by simp only [if_neg h1, if_pos h2]⟩
    · exact .inr ⟨Nat.lt_of_not_le h1, h2, by simp only [if_neg h1, if_neg h2]⟩

/-- A filter-type byte above 4 names no filter type, and only such a byte (R92). -/
theorem FilterType.ofByte_eq_none (v : Byte) : FilterType.ofByte v = Option.none ↔ 4 < v.toNat := by
  revert v; decide

/-- The filter type a byte names has that byte (R92). -/
theorem FilterType.ofByte_toByte (t : FilterType) : FilterType.ofByte t.toByte = some t := by
  cases t <;> decide

theorem FilterType.toByte_of_ofByte {v : Byte} {t : FilterType} (h : FilterType.ofByte v = some t) : t.toByte = v := by
  revert h; revert t v; decide

/-! ### Bytes -/

/-- Up to four bytes packed into a word are its bytes again (R43). -/
theorem byteOf_packBytes (bs : List Byte) (k : Nat) (hk : k < bs.length) (h : bs.length ≤ 4) :
    byteOf k (packBytes bs) = bs[k] := by
  induction bs generalizing k with
  | nil => simp at hk
  | cons b bs ih =>
    cases k with
    | zero =>
      ext i hi
      simp only [byteOf, packBytes, BitVec.getElem_extractLsb', List.getElem_cons_zero]
      simp [hi]
      omega
    | succ k =>
      simp only [List.length_cons] at hk h
      have := ih k (by omega) (by omega)
      rw [List.getElem_cons_succ, ← this]
      ext i hi
      simp only [byteOf, packBytes, BitVec.getElem_extractLsb', BitVec.getLsbD_or, BitVec.getLsbD_shiftLeft,
        BitVec.getLsbD_setWidth]
      have h1 : 8 * (k + 1) + i < 32 := by omega
      have h2 : ¬ 8 * (k + 1) + i < 8 := by omega
      have h3 : 8 * (k + 1) + i - 8 = 8 * k + i := by omega
      have h4 : b.getLsbD (8 * (k + 1) + i) = false := BitVec.getLsbD_of_ge _ _ (by omega)
      simp [h1, h2, h3, h4]

/-- The bits above the packed bytes are 0 (R43, R119). -/
theorem packBytes_high (bs : List Byte) (j : Nat) (h : 8 * bs.length ≤ j) : (packBytes bs).getLsbD j = false := by
  induction bs generalizing j with
  | nil => simp [packBytes]
  | cons b bs ih =>
    simp only [List.length_cons] at h
    have h1 : b.getLsbD j = false := BitVec.getLsbD_of_ge _ _ (by omega)
    simp [packBytes, h1, ih (j - 8) (by omega)]

end Sys2Proof.Machine
end

