-- ==== Sys2Proof/Laws/Exec.lean ====
section
/-! SUPPORT. What each command with several outcomes does once the discard rule is settled: nothing while an error is recorded, otherwise
its rule. -/

namespace Sys2Proof.Machine

/-- Every command but three is discarded while an error is recorded (R131). -/
theorem exec_of_err {s : State} (h : s.status.err = true) (i : Instr) (h0 : i ≠ .nop) (h1 : i ≠ .clrerr) (h2 : i ≠ .sreset) :
    exec i s = .next s := by
  cases i
  case nop => exact absurd rfl h0
  case clrerr => exact absurd rfl h1
  case sreset => exact absurd rfl h2
  all_goals
    simp only [exec, execCrcInit, execCrcByte, execCrcWord, execCrcLoad, execCrcChk, execCrcTab, execSlBegin, execSlPush, execSlPushw,
      execSlReadw, execSlEnd, execPaeth, execUnfilt, unlessErr_of_err h]

theorem exec_unfilt_of_ok {s : State} (h : s.status.err = false) (v : Byte) :
    exec (.unfilt v) s =
      match FilterType.ofByte v with
      | Option.none => .next (raise 0x31 .filter v 0 0 s)
      | some t =>
        .next (s.setResult ((recon t (unfiltX s.arg) (unfiltA s.arg) (unfiltB s.arg) (unfiltC s.arg)).setWidth 32)) := by
  simp only [exec, execUnfilt, unlessErr_of_ok h]
  cases FilterType.ofByte v <;> rfl

theorem exec_slBegin_of_ok {s : State} (h : s.status.err = false) (ct bd : Byte) (dir : Direction) :
    exec (.slBegin ct bd dir) s =
      if headerAccepted ct bd dir = false then .next (raise 0x20 .unsupported ct bd 0 s)
      else if s.arg = 0 ∨ s.lineMax < s.arg.toNat then .next (raise 0x20 .width 0 0 0 s)
      else
        .next ((((s.setStatus (s.status.openSession dir (headerBpp ct dir))).setSlWidth s.arg).setSlRow 0).setSlCol 0) := by
  simp only [exec, execSlBegin, unlessErr_of_ok h, Instr.opcode]

theorem exec_slPush_of_ok {s : State} (h : s.status.err = false) (v : Byte) :
    exec (.slPush v) s =
      if s.status.slActive = false then .next (raise 0x21 .state 0 0 0 s) else (pushByte 0x21 v s).result := by
  simp only [exec, execSlPush, unlessErr_of_ok h, Instr.opcode]

theorem exec_slPushw_of_ok {s : State} (h : s.status.err = false) (n : Nat) :
    exec (.slPushw n) s =
      if s.status.slActive = false then .next (raise 0x22 .state 0 0 0 s)
      else (pushBytes 0x22 (bytesOf n s.arg) s).result := by
  simp only [exec, execSlPushw, unlessErr_of_ok h, Instr.opcode]

theorem exec_slReadw_of_ok {s : State} (h : s.status.err = false) (n : Nat) :
    exec (.slReadw n) s =
      if s.status.hasRow = false then .next (raise 0x23 .index 0 0 0 s)
      else if s.outLen < s.arg.toNat + n then .next (raise 0x23 .index 0 0 0 s)
      else
        match s.outBytes s.arg.toNat n with
        | some bs => .next (s.setResult (packBytes bs))
        | none => .fault .outsideLineBuffer := by
  simp only [exec, execSlReadw, unlessErr_of_ok h, Instr.opcode]
  all_goals (cases s.outBytes s.arg.toNat n <;> rfl)

theorem exec_slEnd_of_ok {s : State} (h : s.status.err = false) :
    exec .slEnd s =
      if s.status.slActive = false then .next (raise 0x24 .state 0 0 0 s)
      else if s.slCol ≠ 0 then .next (raise 0x24 .partialRow 0 0 0 s)
      else .next (s.setStatus (s.status.setSlActive false)) := by
  simp only [exec, execSlEnd, unlessErr_of_ok h, Instr.opcode]

end Sys2Proof.Machine
end

