-- ==== Sys2Proof/Laws/Push.lean ====
section
/-! SUPPORT. Everything one push can do (spec/43_scanline.md R109 to R115), in both directions at once, and what a sequence of pushes
inherits from it. -/

namespace Sys2Proof

open Sys2Proof.Machine

/-- The bytes of a stored row: `rowlen` in decode, `4 * SL_WIDTH` in encode (R111, R114). -/
def rowSize (s : State) : Nat :=
  match s.status.dir with
  | .decode => s.rowlen
  | .encode => 4 * s.slWidth.toNat

/-- The byte a push stores at index `i` (R111, R114). -/
def pushedByte (s : State) (i : Nat) (v : Byte) : Byte :=
  match s.status.dir with
  | .decode => s.reconstructed i v
  | .encode => v

/-- One push: a filter-type byte taken, one refused, a byte stored inside the row, one stored at its end, or a stop past the line
buffer. -/
theorem pushByte_cases (opc v : Byte) (s : State) :
    (∃ ft, s.status.dir = .decode ∧ s.slCol = 0 ∧ FilterType.ofByte v = some ft ∧ pushTarget s = none ∧
        pushByte opc v s = .taken ((s.setStatus (s.status.setFtype ft)).setSlCol 1)) ∨
    (s.status.dir = .decode ∧ s.slCol = 0 ∧ FilterType.ofByte v = Option.none ∧ pushTarget s = none ∧
        pushByte opc v s = .failed ((raise opc .filter v 0 s.slRow s).setStatus
          ((s.status.setErr true).setSlActive false))) ∨
    (∃ i, pushTarget s = some i ∧ i < s.capacity ∧ i + 1 ≠ rowSize s ∧
        pushByte opc v s = .taken ((s.storeCur i (pushedByte s i v)).setSlCol (s.slCol + 1))) ∨
    (∃ i, pushTarget s = some i ∧ i < s.capacity ∧ i + 1 = rowSize s ∧
        pushByte opc v s = .taken (completeRow (rowSize s) (s.storeCur i (pushedByte s i v)))) ∨
    (∃ i, pushTarget s = some i ∧ s.capacity ≤ i ∧ pushByte opc v s = .stopped .outsideLineBuffer) := by
  cases hd : s.status.dir with
  | decode =>
    simp only [pushByte_decode hd, pushTarget, rowSize, pushedByte, hd]
    by_cases h0 : s.slCol = 0
    · rw [pushDecode_filter h0, if_pos h0]
      rcases pushFilterByte_cases opc v s with ⟨t, h, e⟩ | ⟨h, e⟩
      · exact .inl ⟨t, trivial, h0, h, rfl, e⟩
      · exact .inr (.inl ⟨trivial, h0, h, rfl, e⟩)
    · have hn : s.slCol.toNat ≠ 0 := fun h => h0 ((word_eq_zero_iff _).mpr h)
      rw [pushDecode_sample h0, if_neg h0]
      rcases pushSample_cases v s with ⟨h, e⟩ | ⟨h, h', e⟩ | ⟨h, h', e⟩
      · exact .inr (.inr (.inr (.inr ⟨_, rfl, h, e⟩)))
      · exact .inr (.inr (.inr (.inl ⟨_, rfl, h, by omega, e⟩)))
      · exact .inr (.inr (.inl ⟨_, rfl, h, by omega, e⟩))
  | encode =>
    simp only [pushByte_encode hd, pushTarget, rowSize, pushedByte, hd]
    rcases pushEncode_cases v s with ⟨h, e⟩ | ⟨h, h', e⟩ | ⟨h, h', e⟩
    · exact .inr (.inr (.inr (.inr ⟨_, rfl, h, e⟩)))
    · exact .inr (.inr (.inr (.inl ⟨_, rfl, h, h', e⟩)))
    · exact .inr (.inr (.inl ⟨_, rfl, h, h', e⟩))

/-- The opcode of the command matters to the error record of a refused byte only. -/
theorem pushByte_opcode (opc opc' v : Byte) (s : State) :
    (∃ t, pushByte opc v s = .taken t ∧ pushByte opc' v s = .taken t) ∨
    (∃ t, pushByte opc v s = .failed t ∧
      pushByte opc' v s = .failed { t with errInfo := { t.errInfo with opc := opc' } }) ∨
    (∃ f, pushByte opc v s = .stopped f ∧ pushByte opc' v s = .stopped f) := by
  cases hd : s.status.dir with
  | decode =>
    rw [pushByte_decode hd, pushByte_decode hd]
    by_cases h0 : s.slCol = 0
    · rw [pushDecode_filter h0, pushDecode_filter h0]
      unfold pushFilterByte
      cases FilterType.ofByte v with
      | none => exact .inr (.inl ⟨_, rfl, rfl⟩)
      | some t => exact .inl ⟨_, rfl, rfl⟩
    · rw [pushDecode_sample h0, pushDecode_sample h0]
      cases h : pushSample v s with
      | taken t => exact .inl ⟨_, rfl, rfl⟩
      | failed t => exact absurd h (by rcases pushSample_cases v s with ⟨_, e⟩ | ⟨_, _, e⟩ | ⟨_, _, e⟩ <;> simp [e])
      | stopped f => exact .inr (.inr ⟨_, rfl, rfl⟩)
  | encode =>
    rw [pushByte_encode hd, pushByte_encode hd]
    cases h : pushEncode v s with
    | taken t => exact .inl ⟨_, rfl, rfl⟩
    | failed t => exact absurd h (by rcases pushEncode_cases v s with ⟨_, e⟩ | ⟨_, _, e⟩ | ⟨_, _, e⟩ <;> simp [e])
    | stopped f => exact .inr (.inr ⟨_, rfl, rfl⟩)

/-- A byte that is taken leaves the session open, no error recorded, and everything but the pushes' own registers as it was. -/
theorem taken_fields {opc v : Byte} {s t : State} (h : pushByte opc v s = .taken t) :
    t = { s with
      status := { s.status with hasRow := t.status.hasRow, ftype := t.status.ftype }
      slRow := t.slRow
      slCol := t.slCol
      prev := t.prev
      cur := t.cur } := by
  rcases pushByte_cases opc v s with ⟨_, _, _, _, _, e⟩ | ⟨_, _, _, _, e⟩ | ⟨_, _, _, _, e⟩ | ⟨_, _, _, _, e⟩ | ⟨_, _, _, e⟩ <;>
    rw [e] at h <;> first | (injection h with h; subst h; rfl) | exact Push.noConfusion h

/-- A byte that is refused aborts the session and records `E_FILTER` (R110); nothing else changes. -/
theorem failed_fields {opc v : Byte} {s t : State} (h : pushByte opc v s = .failed t) :
    s.status.dir = .decode ∧ s.slCol = 0 ∧ FilterType.ofByte v = Option.none ∧
      t = { s with
        status := { s.status with err := true, slActive := false }
        errInfo := { code := .filter, d0 := v, d1 := 0, opc := opc }
        errRow := s.slRow } := by
  rcases pushByte_cases opc v s with ⟨_, _, _, _, _, e⟩ | ⟨h1, h2, h3, _, e⟩ | ⟨_, _, _, _, e⟩ | ⟨_, _, _, _, e⟩ | ⟨_, _, _, e⟩ <;>
    rw [e] at h
  · exact Push.noConfusion h
  · injection h with h; subst h; exact ⟨h1, h2, h3, rfl⟩
  · exact Push.noConfusion h
  · exact Push.noConfusion h
  · exact Push.noConfusion h

/-- What a push writes in the line buffers: `CUR` at its target; `PREV` when the row completes, below its size. -/
theorem taken_lineByte {opc v : Byte} {s t : State} (h : pushByte opc v s = .taken t) :
    (∀ j, j ∉ (pushTarget s).toList → t.lineByte .cur j = s.lineByte .cur j) ∧
    ((t.slRow = s.slRow ∧ ∀ j, t.lineByte .prev j = s.lineByte .prev j) ∨
      (t.slRow = s.slRow + 1 ∧ ∀ j, rowSize s ≤ j → t.lineByte .prev j = s.lineByte .prev j)) := by
  rcases pushByte_cases opc v s with ⟨_, _, _, _, _, e⟩ | ⟨_, _, _, _, e⟩ | ⟨i, ht, _, _, e⟩ | ⟨i, ht, _, _, e⟩ | ⟨_, _, _, e⟩ <;>
    rw [e] at h
  · injection h with h; subst h; exact ⟨fun _ _ => rfl, .inl ⟨rfl, fun _ => rfl⟩⟩
  · exact Push.noConfusion h
  · injection h with h; subst h
    refine ⟨fun j hj => ?_, .inl ⟨rfl, fun _ => rfl⟩⟩
    rw [ht] at hj
    exact (State.storeCur_lineByte_cur s i j _).trans (if_neg fun hij => hj (by simp [hij]))
  · injection h with h; subst h
    refine ⟨fun j hj => ?_, .inr ⟨rfl, fun j hj => ?_⟩⟩
    · rw [ht] at hj
      exact (State.storeCur_lineByte_cur s i j _).trans (if_neg fun hij => hj (by simp [hij]))
    · rw [completeRow_lineByte_prev, if_neg (Nat.not_lt.mpr hj)]; rfl
  · exact Push.noConfusion h

/-- The size of a row is not the pushes' to change. -/
theorem taken_rowSize {opc v : Byte} {s t : State} (h : pushByte opc v s = .taken t) : rowSize t = rowSize s := by
  rw [taken_fields h]; rfl

/-- `SL.PUSH` and `SL.PUSHW` commands as lists of pushes. -/
theorem exec_slPush_result {s : State} (h : s.status.err = false) (ha : s.status.slActive = true) (v : Byte) :
    exec (.slPush v) s = (pushByte 0x21 v s).result := by
  rw [exec_slPush_of_ok h, if_neg (by rw [ha]; simp)]

theorem exec_slPushw_result {s : State} (h : s.status.err = false) (ha : s.status.slActive = true) (n : Nat) :
    exec (.slPushw n) s = (pushBytes 0x22 (bytesOf n s.arg) s).result := by
  rw [exec_slPushw_of_ok h, if_neg (by rw [ha]; simp)]

end Sys2Proof
end

