-- ==== Sys2Proof/Laws/Inv.lean ====
section
/-! SUPPORT. Bounds that the invariant of spec/10_state.md R34 gives, and the canonical form of the memory right after reset. -/

namespace Sys2Proof

open Sys2Proof.Machine

/-- The line buffers have no listed byte right after reset: the canonical form holds. -/
theorem reset_memory_wf : State.reset.prev.wf ∧ State.reset.cur.wf := ⟨List.Pairwise.nil, List.Pairwise.nil⟩

/-- A reset of the block leaves memory in its canonical form too. -/
theorem resetBlock_memory_wf (s : State) : (resetBlock s).prev.wf ∧ (resetBlock s).cur.wf :=
  ⟨List.Pairwise.nil, List.Pairwise.nil⟩

/-- An open session has a pixel size. -/
theorem Inv.bpp_ne_unset {s : State} (h : Inv s) (ha : s.status.slActive = true) : s.status.bpp ≠ .unset := fun hb => by
  have := (h.before_session hb).2.1
  rw [ha] at this
  cases this

/-- A row fits the line buffers. -/
theorem Inv.rowlen_le_capacity {s : State} (h : Inv s) : s.rowlen ≤ s.capacity := by
  unfold State.rowlen State.capacity
  cases hb : s.status.bpp with
  | unset => simp [Bpp.toNat]
  | rgb => have := h.width_range (by simp [hb]); simp only [Bpp.toNat]; omega
  | rgba => have := h.width_range (by simp [hb]); simp only [Bpp.toNat]; omega

/-- An index of a line buffer fits `SL_COL`. -/
theorem Inv.capacity_lt {s : State} (h : Inv s) : s.capacity < 2 ^ 32 := by
  have := h.lineMax_le
  unfold State.capacity
  omega

/-- In encode a row is 4 bytes per pixel. -/
theorem Inv.rowlen_encode {s : State} (h : Inv s) (hd : s.status.dir = .encode) : s.rowlen = 4 * s.slWidth.toNat := by
  unfold State.rowlen
  rw [h.encode_bpp hd]
  simp only [Bpp.toNat]
  omega

end Sys2Proof
end

