-- ==== Sys2Proof/Laws/PerInstr.lean ====
section
/-! SUPPORT. The statements made per instruction (LAWS.json): decoding an encoded command gives it back. -/

namespace Sys2Proof.Laws.DecodeEncode

/-- Decoding the word of a well-formed command gives the command back (R58 to R62, R67). -/
def Statement (i : Instr) : Prop := i.wellFormed = true → decode (encode i) = .command i

/-- A count of format W is 1, 2, 3 or 4. -/
theorem count_cases {n : Nat} (h : wellFormedCount n = true) : n = 1 ∨ n = 2 ∨ n = 3 ∨ n = 4 := by
  have := of_decide_eq_true h; omega

theorem nop : Statement .nop := fun _ => by decide
theorem clrerr : Statement .clrerr := fun _ => by decide
theorem sreset : Statement .sreset := fun _ => by decide
theorem crcInit : Statement .crcInit := fun _ => by decide
theorem crcLoad : Statement .crcLoad := fun _ => by decide
theorem crcChk : Statement .crcChk := fun _ => by decide
theorem slEnd : Statement .slEnd := fun _ => by decide

theorem crcWord (n : Nat) : Statement (.crcWord n) := fun h => by
  rcases count_cases h with rfl | rfl | rfl | rfl <;> decide

theorem slPushw (n : Nat) : Statement (.slPushw n) := fun h => by
  rcases count_cases h with rfl | rfl | rfl | rfl <;> decide

theorem slReadw (n : Nat) : Statement (.slReadw n) := fun h => by
  rcases count_cases h with rfl | rfl | rfl | rfl <;> decide

/-- The row of a format I8 or U command selects its words. -/
theorem selects_encodeI8 (opc imm : Byte) (m : String) (b : Word → Instr) :
    OpRow.selects ⟨m, opc ++ 0#24, 0xFFFFFF00, b⟩ (encodeI8 opc imm) = true := by
  simp only [OpRow.selects, beq_iff_eq]
  refine word_ext fun i hi => ?_
  rw [show (opc ++ 0#24 : Word) = encodeN opc from rfl, BitVec.getLsbD_and, getLsbD_encodeI8, getLsbD_encodeN]
  interval_cases i <;> simp

theorem crcByte (v : Byte) : Statement (.crcByte v) := fun _ => by
  have := decode_of_selects (r := ⟨"CRC.BYTE", 0x11000000, 0xFFFFFF00, fun w => .crcByte (fieldLow w)⟩)
    (w := encodeI8 0x11 v) (by simp [opcodeMap]) (selects_encodeI8 0x11 v _ _)
  simpa [encode, Instr.opcode, fieldLow_encodeI8] using this

theorem crcTab (idx : Byte) : Statement (.crcTab idx) := fun _ => by
  have := decode_of_selects (r := ⟨"CRC.TAB", 0x15000000, 0xFFFFFF00, fun w => .crcTab (fieldLow w)⟩)
    (w := encodeI8 0x15 idx) (by simp [opcodeMap]) (selects_encodeI8 0x15 idx _ _)
  simpa [encode, Instr.opcode, fieldLow_encodeI8] using this

theorem slPush (v : Byte) : Statement (.slPush v) := fun _ => by
  have := decode_of_selects (r := ⟨"SL.PUSH", 0x21000000, 0xFFFFFF00, fun w => .slPush (fieldLow w)⟩)
    (w := encodeI8 0x21 v) (by simp [opcodeMap]) (selects_encodeI8 0x21 v _ _)
  simpa [encode, Instr.opcode, fieldLow_encodeI8] using this

theorem unfilt (ft : Byte) : Statement (.unfilt ft) := fun _ => by
  have := decode_of_selects (r := ⟨"UNFILT", 0x31000000, 0xFFFFFF00, fun w => .unfilt (fieldLow w)⟩)
    (w := encodeI8 0x31 ft) (by simp [opcodeMap]) (selects_encodeI8 0x31 ft _ _)
  simpa [encode, Instr.opcode, fieldLow_encodeI8] using this

theorem slBegin (ct bd : Byte) (dir : Direction) : Statement (.slBegin ct bd dir) := fun _ => by
  have := decode_of_selects
    (r := ⟨"SL.BEGIN", 0x20000000, 0xFFFE0000, fun w => .slBegin (fieldLow w) (fieldMid w) (fieldDir w)⟩)
    (w := encodeB 0x20 dir bd ct) (by simp [opcodeMap]) (by
      simp only [OpRow.selects, beq_iff_eq]
      refine word_ext fun i hi => ?_
      rw [BitVec.getLsbD_and, getLsbD_encodeB]
      interval_cases i <;> simp)
  simpa [encode, Instr.opcode, fieldLow_encodeB, fieldMid_encodeB, fieldDir_encodeB] using this

theorem paeth (a b c : Byte) : Statement (.paeth a b c) := fun _ => by
  have := decode_of_selects
    (r := ⟨"PAETH", 0x30000000, 0xFF000000, fun w => .paeth (fieldLow w) (fieldMid w) (fieldHigh w)⟩)
    (w := encodeP 0x30 c b a) (by simp [opcodeMap]) (by
      simp only [OpRow.selects, beq_iff_eq]
      refine word_ext fun i hi => ?_
      rw [BitVec.getLsbD_and, getLsbD_encodeP]
      interval_cases i <;> simp)
  simpa [encode, Instr.opcode, fieldLow_encodeP, fieldMid_encodeP, fieldHigh_encodeP] using this

end Sys2Proof.Laws.DecodeEncode
end

