-- ==== Sys2Proof/Laws/Words.lean ====
section
/-! SUPPORT. What an opcode's words do, from its row of the opcode map (spec/30_encoding.md R64, R65) and the discard rule. -/

namespace Sys2Proof

open Sys2Proof.Machine

/-- A word of a row's opcode whose "0" bits are 0 selects the row, and the other way round. -/
theorem selects_iff_zeros {r : OpRow} {opc : Byte} {zeros : Word} (hm : r.mask = 0xFF000000 ||| zeros)
    (hp : r.pattern = opc ++ 0#24) (hz : zeros &&& 0xFF000000 = 0) {w : Word} (hw : w.extractLsb' 24 8 = opc) :
    r.selects w = true ↔ w &&& zeros = 0 := by
  have hsplit : w &&& r.mask = r.pattern ||| (w &&& zeros) := by
    rw [hm, hp, ← hw]
    refine word_ext fun i hi => ?_
    simp only [BitVec.getLsbD_and, BitVec.getLsbD_or, BitVec.getLsbD_append, BitVec.getLsbD_extractLsb', BitVec.getLsbD_zero]
    interval_cases i <;> simp <;> tauto
  simp only [OpRow.selects, beq_iff_eq, hsplit]
  constructor
  · intro h
    have hd : r.pattern &&& zeros = 0 := by
      rw [hp]
      refine word_ext fun i hi => ?_
      have := congrArg (fun x : Word => x.getLsbD i) hz
      simp only [BitVec.getLsbD_and, BitVec.getLsbD_append, BitVec.getLsbD_zero, BitVec.ofNat_eq_ofNat] at this ⊢
      interval_cases i <;> simp_all
    have := congrArg (fun x : Word => x &&& zeros) h
    simp only [hd] at this
    refine word_ext fun i hi => ?_
    have hb := congrArg (fun x : Word => x.getLsbD i) this
    simp only [BitVec.getLsbD_and, BitVec.getLsbD_or, BitVec.getLsbD_zero, BitVec.ofNat_eq_ofNat] at hb ⊢
    revert hb
    cases w.getLsbD i <;> cases zeros.getLsbD i <;> simp
  · intro h; rw [h]; simp

/-- A word no row selects is illegal. -/
theorem decode_of_no_row {w : Word} (h : ∀ r ∈ opcodeMap, r.selects w = false) : decode w = .illegal (illegalReason w) := by
  have : opcodeMap.find? (fun r => r.selects w) = none := List.find?_eq_none.mpr fun r hr => by simp [h r hr]
  simp only [decode, this]

/-- A word with an error recorded does nothing, but for the three exact words of R131. -/
theorem execute_of_err {s : State} (h : s.status.err = true) (w : Word)
    (hw : decode w ≠ .command .nop ∧ decode w ≠ .command .clrerr ∧ decode w ≠ .command .sreset) : execute w s = .next s := by
  unfold execute
  cases hd : decode w with
  | command i =>
    rw [hd] at hw
    exact exec_of_err h i (fun e => hw.1 (by rw [e])) (fun e => hw.2.1 (by rw [e])) (fun e => hw.2.2 (by rw [e]))
  | illegal y => exact unlessErr_of_err h _

/-- The "Operands", "Encoding" and "Errors" of a command, from its row. -/
theorem commandWords_of_row {r : OpRow} {opc : Byte} {zeros : Word} (hr : r ∈ opcodeMap) (hm : r.mask = 0xFF000000 ||| zeros)
    (hp : r.pattern = opc ++ 0#24) (hz : zeros &&& 0xFF000000 = 0)
    (hb : ∀ w, r.build w ≠ .nop ∧ r.build w ≠ .clrerr ∧ r.build w ≠ .sreset) : CommandWords opc zeros r.build := by
  intro w hw
  have hsel := selects_iff_zeros hm hp hz hw
  have hopc : opcodeByte r.pattern = opc := by
    rw [hp]
    refine BitVec.eq_of_getLsbD_eq fun i hi => ?_
    simp only [opcodeByte, BitVec.getLsbD_extractLsb', hi, decide_true, Bool.true_and]
    exact (getLsbD_encodeN opc (24 + i)).trans (by simp)
  have hill : w &&& zeros ≠ 0 → decode w = .illegal (illegalReason w) := fun h => decode_of_no_row fun r' hr' => by
    by_contra hs
    have hs : r'.selects w = true := by simpa using hs
    have : r' = r := row_of_opcodeByte hr' hr (by rw [← opcodeByte_of_selects hr' hs, hopc]; exact hw)
    exact h (hsel.mp (this ▸ hs))
  have hcmd : w &&& zeros = 0 → decode w = .command (r.build w) := fun h => decode_of_selects hr (hsel.mpr h)
  refine ⟨hcmd, fun s => ⟨fun he => execute_of_err he w ?_, fun he h => ?_⟩⟩
  · by_cases h : w &&& zeros = 0
    · rw [hcmd h]
      have := hb w
      simpa using this
    · rw [hill h]
      simp
  · simp only [execute, hill h, unlessErr_of_ok he]
    rw [show opcodeByte w = opc from hw]
    rfl

end Sys2Proof
end

