-- ==== Sys2Proof/Tests/Slice0.lean ====
section
/-! SUPPORT. Small tests, their expected values taken from spec/95_test_vectors.md (section numbers in the docstrings), spec/41_crc.md's
appendix and spec/30_encoding.md, and for every obligation with hypotheses a witness that meets them. -/

namespace Sys2Proof.Tests

open Sys2Proof Sys2Proof.Machine

/-! ### States -/

/-- Reset with `LINE_MAX = 16`, as spec/95_test_vectors.md uses it. -/
def s16 : State := { State.reset with lineMax := 16 }

/-- An error recorded, after the word `0x7F000000` (95 section 5). -/
def errd : State := raise 0x7F .illegal 0 0 0 s16

/-- A session of one-pixel rows. -/
def opened (dir : Direction) (bpp : Bpp) : State :=
  { s16 with
    arg := 1
    slWidth := 1
    status := { Status.reset with slActive := true, dir := dir, bpp := bpp } }

/-- Decode, RGB, width 1, with the row 10, 20, 30 completed (95 section 4.2). -/
def rgbRow : State :=
  { opened .decode .rgb with
    arg := 0
    slRow := 1
    status := { (opened .decode .rgb).status with hasRow := true }
    prev := [(0, 10), (1, 20), (2, 30)]
    cur := [(0, 10), (1, 20), (2, 30)] }

/-- Decode, RGBA, width 1, with a row completed. -/
def rgbaRow : State :=
  { opened .decode .rgba with
    arg := 0
    slRow := 1
    status := { (opened .decode .rgba).status with hasRow := true }
    prev := [(0, 10), (1, 20), (2, 30), (3, 40)]
    cur := [(0, 10), (1, 20), (2, 30), (3, 40)] }

/-- Encode, width 2, with a row completed (95 section 4.3: `OUTLEN = 9`). -/
def encRow : State :=
  { opened .encode .rgba with
    arg := 0
    slWidth := 2
    slRow := 1
    status := { (opened .encode .rgba).status with hasRow := true }
    prev := [(0, 0x11), (1, 0x22), (2, 0x33), (3, 0x44), (4, 0x55), (5, 0x66), (6, 0x77), (7, 0x88)]
    cur := [(0, 0x11), (1, 0x22), (2, 0x33), (3, 0x44), (4, 0x55), (5, 0x66), (6, 0x77), (7, 0x88)] }

/-- The next state meets a test. -/
def ends (r : Result) (p : State → Bool) : Bool :=
  match r with
  | .next t => p t
  | .fault _ => false
  | .refused _ => false

/-- The error record of a state, as a host reads it: `ERR`, `ERRINFO`, `ERRROW`. -/
def record (s : State) : Bool × Word × Word := (s.status.err, s.errInfo.toWord, s.errRow)

/-! ### Well-formedness (R61) -/

theorem test_illformed_crcWord_0 : (Instr.crcWord 0).wellFormed = false := by decide
theorem test_illformed_crcWord_5 : (Instr.crcWord 5).wellFormed = false := by decide
theorem test_illformed_slPushw_0 : (Instr.slPushw 0).wellFormed = false := by decide
theorem test_illformed_slPushw_5 : (Instr.slPushw 5).wellFormed = false := by decide
theorem test_illformed_slReadw_0 : (Instr.slReadw 0).wellFormed = false := by decide
theorem test_illformed_slReadw_5 : (Instr.slReadw 5).wellFormed = false := by decide

/-! ### Decoding, a word of the spec per constructor (R71 to R120, 95 sections 2 to 6) -/

theorem test_decode_nop : decode 0x00000000 = .command (.nop) := by decide
theorem test_decode_clrerr : decode 0x01000000 = .command (.clrerr) := by decide
theorem test_decode_sreset : decode 0x02000000 = .command (.sreset) := by decide
theorem test_decode_crcInit : decode 0x10000000 = .command (.crcInit) := by decide
theorem test_decode_crcByte : decode 0x11000031 = .command (.crcByte 0x31) := by decide
theorem test_decode_crcWord : decode 0x12000003 = .command (.crcWord 4) := by decide
theorem test_decode_crcLoad : decode 0x13000000 = .command (.crcLoad) := by decide
theorem test_decode_crcChk : decode 0x14000000 = .command (.crcChk) := by decide
theorem test_decode_crcTab : decode 0x15000080 = .command (.crcTab 0x80) := by decide
theorem test_decode_slBegin_dec : decode 0x20000802 = .command (.slBegin 2 8 .decode) := by decide
theorem test_decode_slBegin_enc : decode 0x20010806 = .command (.slBegin 6 8 .encode) := by decide
theorem test_decode_slPush : decode 0x210000FA = .command (.slPush 250) := by decide
theorem test_decode_slPushw : decode 0x22000003 = .command (.slPushw 4) := by decide
theorem test_decode_slReadw : decode 0x23000000 = .command (.slReadw 1) := by decide
theorem test_decode_slEnd : decode 0x24000000 = .command (.slEnd) := by decide
theorem test_decode_paeth : decode 0x30640AC8 = .command (.paeth 200 10 100) := by decide
theorem test_decode_unfilt : decode 0x310000FF = .command (.unfilt 255) := by decide

/-- Words that are no command (95 section 6). -/
theorem test_decode_illegal :
    [0x11000141#32, 0x12000004, 0x31000104, 0x20020806, 0x00000001].map decode = List.replicate 5 (.illegal .reservedBitSet) ∧
      [0x03000000#32, 0x7F000000].map decode = List.replicate 2 (.illegal .reservedOpcode) := by decide

theorem test_decodeTableWord : decodeTableWord 32 0x2300000F = none ∧ decodeTableWord 32 0x23000002 = some (.slReadw 3) := by decide

/-! ### The table of the appendix (R82) -/

/-- Entries 0 to 63 of the appendix of spec/41_crc.md. -/
theorem test_crcTable_0 :
    (List.range 64).map (fun k => crcTable (BitVec.ofNat 8 (0 + k))) =
      [0x00000000#32, 0x77073096, 0xEE0E612C, 0x990951BA, 0x076DC419, 0x706AF48F, 0xE963A535, 0x9E6495A3] ++
      [0x0EDB8832#32, 0x79DCB8A4, 0xE0D5E91E, 0x97D2D988, 0x09B64C2B, 0x7EB17CBD, 0xE7B82D07, 0x90BF1D91] ++
      [0x1DB71064#32, 0x6AB020F2, 0xF3B97148, 0x84BE41DE, 0x1ADAD47D, 0x6DDDE4EB, 0xF4D4B551, 0x83D385C7] ++
      [0x136C9856#32, 0x646BA8C0, 0xFD62F97A, 0x8A65C9EC, 0x14015C4F, 0x63066CD9, 0xFA0F3D63, 0x8D080DF5] ++
      [0x3B6E20C8#32, 0x4C69105E, 0xD56041E4, 0xA2677172, 0x3C03E4D1, 0x4B04D447, 0xD20D85FD, 0xA50AB56B] ++
      [0x35B5A8FA#32, 0x42B2986C, 0xDBBBC9D6, 0xACBCF940, 0x32D86CE3, 0x45DF5C75, 0xDCD60DCF, 0xABD13D59] ++
      [0x26D930AC#32, 0x51DE003A, 0xC8D75180, 0xBFD06116, 0x21B4F4B5, 0x56B3C423, 0xCFBA9599, 0xB8BDA50F] ++
      [0x2802B89E#32, 0x5F058808, 0xC60CD9B2, 0xB10BE924, 0x2F6F7C87, 0x58684C11, 0xC1611DAB, 0xB6662D3D] := by decide

/-- Entries 64 to 127 of the appendix of spec/41_crc.md. -/
theorem test_crcTable_1 :
    (List.range 64).map (fun k => crcTable (BitVec.ofNat 8 (64 + k))) =
      [0x76DC4190#32, 0x01DB7106, 0x98D220BC, 0xEFD5102A, 0x71B18589, 0x06B6B51F, 0x9FBFE4A5, 0xE8B8D433] ++
      [0x7807C9A2#32, 0x0F00F934, 0x9609A88E, 0xE10E9818, 0x7F6A0DBB, 0x086D3D2D, 0x91646C97, 0xE6635C01] ++
      [0x6B6B51F4#32, 0x1C6C6162, 0x856530D8, 0xF262004E, 0x6C0695ED, 0x1B01A57B, 0x8208F4C1, 0xF50FC457] ++
      [0x65B0D9C6#32, 0x12B7E950, 0x8BBEB8EA, 0xFCB9887C, 0x62DD1DDF, 0x15DA2D49, 0x8CD37CF3, 0xFBD44C65] ++
      [0x4DB26158#32, 0x3AB551CE, 0xA3BC0074, 0xD4BB30E2, 0x4ADFA541, 0x3DD895D7, 0xA4D1C46D, 0xD3D6F4FB] ++
      [0x4369E96A#32, 0x346ED9FC, 0xAD678846, 0xDA60B8D0, 0x44042D73, 0x33031DE5, 0xAA0A4C5F, 0xDD0D7CC9] ++
      [0x5005713C#32, 0x270241AA, 0xBE0B1010, 0xC90C2086, 0x5768B525, 0x206F85B3, 0xB966D409, 0xCE61E49F] ++
      [0x5EDEF90E#32, 0x29D9C998, 0xB0D09822, 0xC7D7A8B4, 0x59B33D17, 0x2EB40D81, 0xB7BD5C3B, 0xC0BA6CAD] := by decide

/-- Entries 128 to 191 of the appendix of spec/41_crc.md. -/
theorem test_crcTable_2 :
    (List.range 64).map (fun k => crcTable (BitVec.ofNat 8 (128 + k))) =
      [0xEDB88320#32, 0x9ABFB3B6, 0x03B6E20C, 0x74B1D29A, 0xEAD54739, 0x9DD277AF, 0x04DB2615, 0x73DC1683] ++
      [0xE3630B12#32, 0x94643B84, 0x0D6D6A3E, 0x7A6A5AA8, 0xE40ECF0B, 0x9309FF9D, 0x0A00AE27, 0x7D079EB1] ++
      [0xF00F9344#32, 0x8708A3D2, 0x1E01F268, 0x6906C2FE, 0xF762575D, 0x806567CB, 0x196C3671, 0x6E6B06E7] ++
      [0xFED41B76#32, 0x89D32BE0, 0x10DA7A5A, 0x67DD4ACC, 0xF9B9DF6F, 0x8EBEEFF9, 0x17B7BE43, 0x60B08ED5] ++
      [0xD6D6A3E8#32, 0xA1D1937E, 0x38D8C2C4, 0x4FDFF252, 0xD1BB67F1, 0xA6BC5767, 0x3FB506DD, 0x48B2364B] ++
      [0xD80D2BDA#32, 0xAF0A1B4C, 0x36034AF6, 0x41047A60, 0xDF60EFC3, 0xA867DF55, 0x316E8EEF, 0x4669BE79] ++
      [0xCB61B38C#32, 0xBC66831A, 0x256FD2A0, 0x5268E236, 0xCC0C7795, 0xBB0B4703, 0x220216B9, 0x5505262F] ++
      [0xC5BA3BBE#32, 0xB2BD0B28, 0x2BB45A92, 0x5CB36A04, 0xC2D7FFA7, 0xB5D0CF31, 0x2CD99E8B, 0x5BDEAE1D] := by decide

/-- Entries 192 to 255 of the appendix of spec/41_crc.md. -/
theorem test_crcTable_3 :
    (List.range 64).map (fun k => crcTable (BitVec.ofNat 8 (192 + k))) =
      [0x9B64C2B0#32, 0xEC63F226, 0x756AA39C, 0x026D930A, 0x9C0906A9, 0xEB0E363F, 0x72076785, 0x05005713] ++
      [0x95BF4A82#32, 0xE2B87A14, 0x7BB12BAE, 0x0CB61B38, 0x92D28E9B, 0xE5D5BE0D, 0x7CDCEFB7, 0x0BDBDF21] ++
      [0x86D3D2D4#32, 0xF1D4E242, 0x68DDB3F8, 0x1FDA836E, 0x81BE16CD, 0xF6B9265B, 0x6FB077E1, 0x18B74777] ++
      [0x88085AE6#32, 0xFF0F6A70, 0x66063BCA, 0x11010B5C, 0x8F659EFF, 0xF862AE69, 0x616BFFD3, 0x166CCF45] ++
      [0xA00AE278#32, 0xD70DD2EE, 0x4E048354, 0x3903B3C2, 0xA7672661, 0xD06016F7, 0x4969474D, 0x3E6E77DB] ++
      [0xAED16A4A#32, 0xD9D65ADC, 0x40DF0B66, 0x37D83BF0, 0xA9BCAE53, 0xDEBB9EC5, 0x47B2CF7F, 0x30B5FFE9] ++
      [0xBDBDF21C#32, 0xCABAC28A, 0x53B39330, 0x24B4A3A6, 0xBAD03605, 0xCDD70693, 0x54DE5729, 0x23D967BF] ++
      [0xB3667A2E#32, 0xC4614AB8, 0x5D681B02, 0x2A6F2B94, 0xB40BBE37, 0xC30C8EA1, 0x5A05DF1B, 0x2D02EF8D] := by decide

/-! ### One command each -/

/-- 95 section 5: `NOP` with and without an error recorded. -/
theorem test_nop : ends (exec .nop s16) (fun t => t = s16) ∧ ends (exec .nop errd) (fun t => t = errd) := by decide

/-- 95 section 5: the error record before and after `CLRERR`. -/
theorem test_clrerr : record errd = (true, 0x7F000003, 0) ∧ ends (exec .clrerr errd) (fun t => t = s16) := by decide

/-- 95 section 5: `SRESET` while an error is recorded. -/
theorem test_sreset :
    ends (exec .sreset { errd with arg := 5, crcState := 0x7C231048 })
      (fun t => t.arg = 0 ∧ t.crcState = 0xFFFFFFFF ∧ record t = (false, 0, 0) ∧ t.resets = 1) := by decide

/-- R85's example. -/
theorem test_crcInit : ends (exec .crcInit { s16 with crcState := 0x340BC6D9 }) (fun t => t.crcState = 0xFFFFFFFF) := by decide

/-- 95 section 2.3. -/
theorem test_crcByte :
    ends (exec (.crcByte 0x80) s16) (fun t => t.crcState = 0xC0459352) ∧
      ends (exec (.crcByte 0xFF) { s16 with crcState := 0 }) (fun t => t.crcState = 0x2D02EF8D) := by decide

/-- 95 section 5: discarded while an error is recorded. -/
theorem test_crcByte_discarded : ends (exec (.crcByte 0x80) errd) (fun t => t = errd) := by decide

set_option maxRecDepth 4000 in
/-- 95 section 2.3: bytes 31 32 33, first byte in `ARG[7:0]`. -/
theorem test_crcWord_3 : ends (exec (.crcWord 3) { s16 with arg := 0x34333231 }) (fun t => t.crcState = 0x77B79C2D) := by decide

set_option maxRecDepth 4000 in
/-- R87's example: the checksum of "IEND". -/
theorem test_crcWord_4 : ends (exec (.crcWord 4) { s16 with arg := 0x444E4549 }) (fun t => t.crcResult = 0xAE426082) := by decide

/-- 95 section 2.3. -/
theorem test_crcLoad : ends (exec .crcLoad { s16 with arg := 0x12345678 }) (fun t => t.crcResult = 0xEDCBA987) := by decide

/-- 95 section 2.4: a match; the raw state does not match and is no error. -/
theorem test_crcChk :
    ends (exec .crcChk { s16 with crcState := 0x340BC6D9, arg := 0xCBF43926 }) (fun t => t.status.toWord = 2) ∧
      ends (exec .crcChk { s16 with crcState := 0x340BC6D9, arg := 0x340BC6D9 }) (fun t => t.status.toWord = 0) := by decide

/-- 95 section 2.1. -/
theorem test_crcTab : ends (exec (.crcTab 0xFF) s16) (fun t => t.result = 0x2D02EF8D) := by decide

set_option maxRecDepth 4000 in
/-- V1: the check value of "123456789". -/
theorem test_crcOf_check : crcOf [0x31, 0x32, 0x33, 0x34, 0x35, 0x36, 0x37, 0x38, 0x39] = 0xCBF43926 := by decide

/-- 95 section 4.1: accepted at `LINE_MAX`, and what `STATUS` reads then. -/
theorem test_slBegin_accepted :
    ends (exec (.slBegin 6 8 .encode) { s16 with arg := 16 }) (fun t => t.status.toWord = 0x0000040C ∧ t.slWidth = 16) := by decide

/-- 95 section 4.1: the header is checked before the width; then the width. -/
theorem test_slBegin_errors :
    ends (exec (.slBegin 6 16 .encode) s16) (fun t => record t = (true, 0x20100602, 0)) ∧
      ends (exec (.slBegin 6 8 .decode) { s16 with arg := 17 }) (fun t => record t = (true, 0x20000005, 0)) := by decide

/-- 95 section 4.2: a filter-type byte of 5. -/
theorem test_slPush_filter :
    ends (exec (.slPush 5) (opened .decode .rgba)) (fun t => t.status.toWord = 0x00000401 ∧ record t = (true, 0x21000501, 0)) := by
  decide

/-- 95 program P2, step 21: the sum wraps, `(250 + 15) mod 256 = 9`, with `(a, b, c) = (11, 15, 10)`. -/
theorem test_slPush_sample :
    ends (exec (.slPush 250)
      { rgbRow with
        slWidth := 2
        slCol := 4
        status := { rgbRow.status with ftype := .paeth }
        prev := [(0, 10), (1, 20), (2, 30), (3, 15), (4, 25), (5, 35)]
        cur := [(0, 11), (1, 21), (2, 31), (3, 15), (4, 25), (5, 35)] })
      (fun t => t.lineByte .cur 3 = 9 ∧ t.slCol = 5) := by decide

/-- 95 section 4.2: a first row, filter 0 and samples 10, 20, 30. -/
theorem test_slPushw_row :
    ends (exec (.slPushw 4) { opened .decode .rgb with arg := 0x1E140A00 })
      (fun t => rowBytes t 3 = [10, 20, 30] ∧ t.slRow = 1 ∧ t.slCol = 0) := by decide

/-- 95 section 4.2: then a second row, filter 2 and samples 5, 5, 0. -/
theorem test_slPushw_up :
    ends (exec (.slPushw 4) { rgbRow with arg := 0x00050502 })
      (fun t => rowBytes t 3 = [15, 25, 30] ∧ t.slRow = 2 ∧ t.status.toWord = 0x00020314) := by decide

/-- 95 section 4.2: the output row 10, 20, 30, 255; no completed row after reset (95 section 4.3). -/
theorem test_slReadw_decode :
    ends (exec (.slReadw 4) rgbRow) (fun t => t.result = 0xFF1E140A) ∧
      ends (exec (.slReadw 1) s16) (fun t => record t = (true, 0x23000006, 0)) := by decide

/-- 95 section 4.3: the last byte of an encode row, and one range too far. -/
theorem test_slReadw_encode :
    ends (exec (.slReadw 1) { encRow with arg := 8 }) (fun t => t.result = 0x00000088) ∧
      ends (exec (.slReadw 4) { encRow with arg := 6 }) (fun t => record t = (true, 0x23000006, 0)) := by decide

/-- 95 section 4.3: no session; inside a row. -/
theorem test_slEnd_errors :
    ends (exec .slEnd s16) (fun t => record t = (true, 0x24000004, 0)) ∧
      ends (exec .slEnd { opened .decode .rgba with slCol := 1 })
        (fun t => record t = (true, 0x24000007, 0) ∧ t.status.toWord = 0x00000405) := by decide

/-- 95 program P2, step 31. -/
theorem test_slEnd : ends (exec .slEnd rgbRow) (fun t => t.status.slActive = false ∧ t.status.hasRow = true) := by decide

/-- 95 section 3.1: a tie of a and b with the estimate above 255; the third neighbour. -/
theorem test_paeth :
    ends (exec (.paeth 200 200 100) s16) (fun t => t.result = 0x000000C8) ∧
      ends (exec (.paeth 7 3 5) s16) (fun t => t.result = 0x00000205) := by decide

/-- 95 section 3.2: the Average sum is exact. -/
theorem test_unfilt : ends (exec (.unfilt 3) { s16 with arg := 0x00FFFF00 }) (fun t => t.result = 0x000000FF) := by decide

/-- 95 section 3.2: filter type 5. -/
theorem test_unfilt_5 :
    ends (exec (.unfilt 5) { s16 with arg := 0x0302017F }) (fun t => record t = (true, 0x31000501, 0) ∧ t.result = 0) := by decide

/-! ### The port (95 section 7) -/

theorem test_bus_misaligned : busRead 32 0x02 s16 = (0, .error) ∧ busRead 8 0x00 s16 = (0, .error) := by decide

theorem test_bus_readonly : ends (busWrite 32 0x20 5 s16) (fun t => t = s16) ∧ busRead 32 0xFC s16 = (0, .okay) := by decide

/-- A word placed by `withFetchWord` is run by the next step. -/
theorem test_step_runs_fetched_word :
    ends (step (s16.withFetchWord 32 0x15000080)) (fun t => t.result = 0xEDB88320 ∧ t.responses = [.writeDone .okay]) := by decide

/-! ### The text of a line (R68, R69; the lines of 95 programs P1 and P2) -/

theorem test_lineText_commands :
    lineText "crc.init" = some [.cmd .crcInit] ∧ lineText "arg 0x34333231 ; bytes 1234" = some [.arg 0x34333231] ∧
      lineText "rd CRC_RESULT" = some [.rd .crcResult] ∧ lineText "SL.BEGIN 2, 8, dec" = some [.cmd (.slBegin 2 8 .decode)] ∧
      lineText "sl.push 250" = some [.cmd (.slPush 250)] ∧ lineText "paeth 10, 20, 15" = some [.cmd (.paeth 10 20 15)] := by decide

theorem test_lineText_pseudo :
    lineText "crc.bytes 0x31, 0x32, 0x33, 0x34, 0x35" =
        some [.arg 0x34333231, .cmd (.crcWord 4), .arg 0x00000035, .cmd (.crcWord 1)] ∧
      lineText "unfilt.v 4, 1, 10, 20, 15" = some [.arg 0x0F140A01, .cmd (.unfilt 4)] ∧
      lineText "sl.pix 1" = some [.arg 4, .cmd (.slReadw 4)] := by decide

theorem test_lineText_refused :
    lineText "crc.word 5" = none ∧ lineText "crc.byte 256" = none ∧ lineText "rd PC" = none ∧ lineText "  ; a comment" = some [] := by
  decide

/-- Each command line of R68 encodes to its word (95 sections 2 to 5). -/
theorem test_line_events :
    asmEvents [.cmd (.crcWord 4), .rd .status, .arg 5] = [.write 32 0x08 0x12000003, .read 32 0x14, .write 32 0x0C 5] := by decide

/-! ### The invariant holds of concrete states -/

theorem inv_s16 : Inv s16 := by
  constructor <;> first | decide | (intro _ i hi; exact absurd hi (by simp [s16, State.reset]))

theorem inv_errd : Inv errd := by
  constructor <;> first | decide | (intro _ i hi; exact absurd hi (by simp [errd, raise, s16, State.reset]))

theorem inv_rgb : Inv (opened .decode .rgb) := by
  constructor <;> first | decide | (intro _ i hi; exact absurd hi (by simp [opened, s16, State.reset]))

theorem inv_rgba : Inv (opened .decode .rgba) := by
  constructor <;> first | decide | (intro _ i hi; exact absurd hi (by simp [opened, s16, State.reset]))

theorem inv_enc : Inv (opened .encode .rgba) := by
  constructor <;> first | decide | (intro _ i hi; exact absurd hi (by simp [opened, s16, State.reset]))

theorem inv_rgbRow : Inv rgbRow := by
  constructor <;> first | decide | (intro _ i hi; exact absurd hi (by simp [rgbRow, opened, s16, State.reset]))

theorem inv_rgbaRow : Inv rgbaRow := by
  constructor <;> first | decide | (intro _ i hi; exact absurd hi (by simp [rgbaRow, opened, s16, State.reset]))

theorem inv_encRow : Inv encRow := by
  constructor <;> first | decide | (intro _ i hi; exact absurd hi (by simp [encRow, opened, s16, State.reset]))

/-! ### Witnesses: concrete inputs that meet the hypotheses of each obligation -/

theorem witness_DecodeOfEncodeIsTheCommand :
    (Instr.crcWord 1).wellFormed = true ∧ (Instr.crcWord 4).wellFormed = true ∧ (Instr.paeth 1 2 255).wellFormed = true := by decide

theorem witness_EncodeOfDecodeIsTheWord : decode 0x22000003 = .command (.slPushw 4) := by decide

theorem witness_OpcodeMapSelectsAtMostOneRow :
    opcodeMap.any (fun r => r.mnemonic == "SL.BEGIN" && (0x2001FFFF#32 &&& r.mask == r.pattern)) = true := by decide

theorem witness_IllegalWordsRaiseIllegalOrAreDiscarded :
    (∃ y, decode 0x12000004 = .illegal y) ∧ s16.status.err = false ∧ errd.status.err = true ∧ (0x01000001#32 ≠ 0x01000000) :=
  ⟨⟨.reservedBitSet, by decide⟩, by decide, by decide, by decide⟩

theorem witness_CommandsAreDiscardedWhileAnErrorStands :
    errd.status.err = true ∧ 0x00000001#32 ≠ 0x00000000 ∧ 0x00000001#32 ≠ 0x01000000 ∧ 0x00000001#32 ≠ 0x02000000 := by decide

theorem witness_StepRunsTheDecodedCommand :
    (let s := s16.withFetchWord 32 0x15000080
     s.inReset = false ∧ s.inbox = .write 32 0x08 0x15000080 :: [] ∧ decode 0x15000080 = .command (.crcTab 0x80)) ∧
      s16.inbox = [] := by decide

theorem witness_WritesActAtCmdAndArgOnly : s16.inReset = false ∧ errd.inReset = false := by decide

/-- The first and the last unmapped offset, a misaligned one, a narrow access. -/
theorem witness_EveryRegisterReadsAtItsOffset :
    (0x34#8).toNat % 4 = 0 ∧ 0x34 ≤ (0x34#8).toNat ∧ (0xFC#8).toNat % 4 = 0 ∧ 0x34 ≤ (0xFC#8).toNat ∧
      (32 ≠ 32 ∨ (0x02#8).toNat % 4 ≠ 0) ∧ (16 ≠ 32 ∨ (0x00#8).toNat % 4 ≠ 0) ∧ s16.inReset = false := by decide

theorem witness_NopLeavesTheStateUnchanged :
    (0x00000001#32).extractLsb' 24 8 = 0x00#8 ∧ 0x00000001#32 ≠ 0x00000000 ∧ s16.status.err = false := by decide

/-- A legal word of an opcode and one with the lowest "0" bit set, with and without an error recorded (every statement that holds the
words and errors of a command). -/
theorem witness_CommandWords :
    (0x11000041#32).extractLsb' 24 8 = 0x11#8 ∧ 0x11000041#32 &&& 0x00FFFF00 = 0 ∧
      (0x11000141#32).extractLsb' 24 8 = 0x11#8 ∧ 0x11000141#32 &&& 0x00FFFF00 ≠ 0 ∧ s16.status.err = false ∧
      errd.status.err = true := by decide

theorem witness_RejectedAccessesChangeNothing :
    (16 ≠ 32 ∨ (0x08#8).toNat % 4 ≠ 0) ∧ (32 ≠ 32 ∨ (0x02#8).toNat % 4 ≠ 0) ∧ s16.inReset = false ∧
      (s16.setInbox [.read 16 0x08]).inbox = .read 16 0x08 :: [] ∧
      (s16.setInbox [.write 32 0x02 5]).inbox = .write 32 0x02 5 :: [] := by decide

theorem witness_ReadsHaveNoSideEffect :
    let s := s16.setInbox [.read 32 0x14, .read 32 0x18]
    s.inReset = false ∧ s.inbox = .read 32 0x14 :: .read 32 0x18 :: [] := by decide

theorem witness_ResetInputAndSresetGiveResetValues :
    (s16.setInReset true).inReset = true ∧ s16.inReset = false ∧ ∀ b, BusEvent.read 32 0x14 ≠ .resetLine b := by decide

theorem witness_WindowLiesAtBase :
    windowOffset Config.base Config.base = some 0x00 ∧ windowOffset Config.base (Config.base + 255) = some 0xFF ∧
      windowOffset Config.base (Config.base + 256) = none := by simp [windowOffset]

theorem witness_ClrerrClearsTheErrorRecord : Inv s16 ∧ s16.status.err = false := ⟨inv_s16, by decide⟩

theorem witness_CrcInitAndLoadSetTheRegister : s16.status.err = false := by decide

theorem witness_CrcByteIsOneTableStep : ({ s16 with crcState := 0x340BC6D9 } : State).status.err = false := by decide

theorem witness_CrcWordIsItsBytesInOrder : s16.status.err = false ∧ 1 ≤ 1 ∧ 1 ≤ 4 ∧ 4 ≤ 4 := by decide

theorem witness_CrcChkComparesTheChecksum : rgbRow.status.err = false := by decide

theorem witness_CrcTabReadsTheTable : encRow.status.err = false := by decide

theorem witness_ChecksumOfTheBytesFed :
    s16.inReset = false ∧ s16.status.err = false ∧ ∀ f ∈ [CrcFeed.byte 1, .word [2], .word [3, 4, 5, 6]], f.ok := by
  simp [CrcFeed.ok, s16, State.reset, Status.reset]

theorem witness_CrcBytesFeedsEveryByte : s16.inReset = false ∧ s16.status.err = false := by decide

theorem witness_SlBytesPushesEveryByte :
    let s := opened .decode .rgb
    s.inReset = false ∧ s.status.err = false ∧ s.status.slActive = true ∧
      ∃ t, execAll ([0#8, 10, 20, 30].map .slPush) s = .next t ∧ t.status.err = false :=
  ⟨by decide, by decide, by decide, _, rfl, by decide⟩

/-- With three equal operands, and with operands that are not. -/
theorem witness_PaethCommandGivesValueAndSelection :
    s16.status.err = false ∧ (7#8 = 7 ∧ 7#8 = 7) ∧ ¬ (10#8 = 20 ∧ 20#8 = 15) := by decide

/-- The neighbours of 95 section 3.1, one triple per clause: a tie of a with b, b nearest, c nearest. -/
theorem witness_PaethTakesTheNearestNeighbour :
    (paethDistance 255 255 0 255 ≤ paethDistance 255 255 0 255 ∧ paethDistance 255 255 0 255 ≤ paethDistance 255 255 0 0) ∧
    (¬ paethDistance 0 255 0 0 ≤ paethDistance 0 255 0 255 ∧ paethDistance 0 255 0 255 ≤ paethDistance 0 255 0 0) ∧
    (¬ paethDistance 7 3 5 7 ≤ paethDistance 7 3 5 5 ∧ ¬ paethDistance 7 3 5 3 ≤ paethDistance 7 3 5 5) := by decide

theorem witness_UnfiltReconstructsOrRaisesFilter : s16.status.err = false ∧ 4 < (5#8).toNat ∧ 4 < (255#8).toNat := by decide

/-- A header refused for its bit depth, one for its direction, one for its colour type; each accepted header; widths 0, 1, `LINE_MAX` and
`LINE_MAX + 1`. -/
theorem witness_SlBeginOpensASessionOrRaises :
    s16.status.err = false ∧
      (∀ c ∈ [(6#8, 16#8, Direction.encode), (2, 8, .encode), (0, 8, .decode)],
        ¬ (c.2.1 = 8 ∧ ((c.2.2 = .decode ∧ (c.1 = 2 ∨ c.1 = 6)) ∨ (c.2.2 = .encode ∧ c.1 = 6)))) ∧
      (∀ c ∈ [(2#8, 8#8, Direction.decode), (6, 8, .decode), (6, 8, .encode)],
        c.2.1 = 8 ∧ ((c.2.2 = .decode ∧ (c.1 = 2 ∨ c.1 = 6)) ∨ (c.2.2 = .encode ∧ c.1 = 6))) ∧
      ((0#32).toNat = 0 ∨ s16.lineMax < (0#32).toNat) ∧ ((17#32).toNat = 0 ∨ s16.lineMax < (17#32).toNat) ∧
      (1 ≤ (1#32).toNat ∧ (1#32).toNat ≤ s16.lineMax) ∧ (1 ≤ (16#32).toNat ∧ (16#32).toNat ≤ s16.lineMax) := by decide

theorem witness_SlPushTakesTheFilterTypeByte :
    let s := opened .decode .rgba
    s.status.err = false ∧ s.status.slActive = true ∧ s.status.dir = .decode ∧ s.slCol = 0 ∧ 0 = FilterType.none.toByte ∧
      4 = FilterType.paeth.toByte ∧ 4 < (5#8).toNat := by decide

/-- The first sample of a row and the last one. -/
theorem witness_SlPushReconstructsASample :
    (let s := { rgbRow with slCol := 1 }
     s.status.err = false ∧ s.status.slActive = true ∧ s.status.dir = .decode ∧ s.slCol.toNat = 0 + 1 ∧ 0 < 4 * s.lineMax ∧
       s.slCol.toNat ≠ s.slWidth.toNat * s.status.bpp.toNat) ∧
    (let s := { rgbRow with slCol := 3 }
     s.status.err = false ∧ s.status.slActive = true ∧ s.status.dir = .decode ∧ s.slCol.toNat = 2 + 1 ∧ 2 < 4 * s.lineMax ∧
       s.slCol.toNat = s.slWidth.toNat * s.status.bpp.toNat) := by decide

/-- The first byte of a row and the last one. -/
theorem witness_SlPushStoresARasterByte :
    (let s := encRow
     s.status.err = false ∧ s.status.slActive = true ∧ s.status.dir = .encode ∧ s.slCol.toNat < 4 * s.lineMax ∧
       s.slCol.toNat + 1 ≠ 4 * s.slWidth.toNat) ∧
    (let s := { encRow with slCol := 7 }
     s.status.err = false ∧ s.status.slActive = true ∧ s.status.dir = .encode ∧ s.slCol.toNat < 4 * s.lineMax ∧
       s.slCol.toNat + 1 = 4 * s.slWidth.toNat) := by decide

theorem witness_SlPushNeedsASession : s16.status.err = false ∧ s16.status.slActive = false := by decide

/-- No session; a session, with the smallest and the largest count. -/
theorem witness_SlPushwEqualsPushesUpToTheFirstError :
    (s16.status.err = false ∧ s16.status.slActive = false) ∧
      Inv (opened .decode .rgb) ∧ (opened .decode .rgb).status.err = false ∧ (opened .decode .rgb).status.slActive = true ∧
      (1 ≤ 1 ∧ 1 ≤ 4) ∧ 1 ≤ 4 ∧ 4 ≤ 4 :=
  ⟨by decide, inv_rgb, by decide, by decide, by decide, by decide, by decide⟩

/-- No completed row; one byte past the output row; the whole output row of one RGB pixel; the last byte of an encode row. -/
theorem witness_SlReadwReadsTheOutputRowOrRaisesIndex :
    (s16.status.err = false ∧ s16.status.hasRow = false) ∧
      (encRow.status.err = false ∧ encRow.outLen < ({ encRow with arg := 9 } : State).arg.toNat + 1) ∧
      (Inv rgbRow ∧ rgbRow.status.err = false ∧ rgbRow.status.hasRow = true ∧ rgbRow.arg.toNat + 4 ≤ rgbRow.outLen) ∧
      ({ encRow with arg := 8 } : State).arg.toNat + 1 ≤ encRow.outLen :=
  ⟨by decide, by decide, ⟨inv_rgbRow, by decide, by decide, by decide⟩, by decide⟩

theorem witness_OutputRowIsTheExpandedRow :
    (Inv rgbRow ∧ rgbRow.status.hasRow = true ∧ rgbRow.status.dir = .decode ∧ rgbRow.status.bpp = .rgb) ∧
    (Inv rgbaRow ∧ rgbaRow.status.hasRow = true ∧ rgbaRow.status.dir = .decode ∧ rgbaRow.status.bpp = .rgba) ∧
    (Inv encRow ∧ encRow.status.hasRow = true ∧ encRow.status.dir = .encode) :=
  ⟨⟨inv_rgbRow, by decide, by decide, by decide⟩, ⟨inv_rgbaRow, by decide, by decide, by decide⟩,
    inv_encRow, by decide, by decide⟩

/-- No session; between rows; inside a row. -/
theorem witness_SlEndClosesBetweenRows :
    (s16.status.err = false ∧ s16.status.slActive = false) ∧
      (rgbRow.status.err = false ∧ rgbRow.status.slActive = true ∧ rgbRow.slCol = 0) ∧
      ({ rgbRow with slCol := 1 } : State).slCol ≠ 0 := by decide

theorem witness_FrameOfCommandsWithoutASession :
    (∃ t, exec (.crcByte 1) rgbRow = .next t) ∧ (∃ t, exec .crcChk rgbRow = .next t) ∧ (∃ t, exec (.crcTab 1) rgbRow = .next t) ∧
      (∃ t, exec (.unfilt 5) rgbRow = .next t) ∧ (∃ t, exec (.slReadw 4) rgbRow = .next t) ∧ ∃ t, exec .clrerr errd = .next t :=
  ⟨⟨_, rfl⟩, ⟨_, rfl⟩, ⟨_, rfl⟩, ⟨_, rfl⟩, ⟨_, rfl⟩, ⟨_, rfl⟩⟩

theorem witness_FrameOfOpeningAndClosingASession :
    (∃ t, exec (.slBegin 6 8 .decode) { s16 with arg := 16 } = .next t ∧ t.status.slActive = true) ∧
      ∃ t, exec .slEnd rgbRow = .next t ∧ t.status.slActive = false := ⟨⟨_, rfl, by decide⟩, ⟨_, rfl, by decide⟩⟩

/-- Pushes that store at the indexes 0, 1, 2 and complete a row; one in encode. -/
theorem witness_FrameOfThePushes :
    (∃ t, exec (.slPushw 4) { opened .decode .rgb with arg := 0x1E140A00 } = .next t ∧ t.slRow = 1) ∧
      pushTargets 0x22 (bytesOf 4 0x1E140A00) (opened .decode .rgb) = [0, 1, 2] ∧
      ∃ t, exec (.slPush 9) encRow = .next t ∧ t.slRow = encRow.slRow :=
  ⟨⟨_, rfl, by decide⟩, by decide, ⟨_, rfl, by decide⟩⟩

theorem witness_ResultChangesOnlyBySuccess : ∃ t, exec (.crcTab 0x80) s16 = .next t ∧ t.result ≠ s16.result := ⟨_, rfl, by decide⟩

theorem witness_ArgCrcStateAndWidthAreWrittenOnlyByTheirCommands :
    (∃ t, exec .sreset { s16 with arg := 5 } = .next t ∧ t.arg ≠ 5) ∧
      (∃ t, exec .crcLoad s16 = .next t ∧ t.crcState ≠ s16.crcState) ∧
      ∃ t, exec (.slBegin 6 8 .decode) { s16 with arg := 16 } = .next t ∧ t.slWidth ≠ s16.slWidth :=
  ⟨⟨_, rfl, by decide⟩, ⟨_, rfl, by decide⟩, ⟨_, rfl, by decide⟩⟩

theorem witness_StatusFieldsAreWrittenOnlyByTheirCommands :
    (∃ t, exec .clrerr errd = .next t ∧ errd.status.err = true ∧ t.status.err = false) ∧
      (∃ t, exec .crcChk s16 = .next t ∧ t.status.crcMatch ≠ s16.status.crcMatch) ∧
      (∃ t, exec (.slPush 5) (opened .decode .rgb) = .next t ∧ t.status.slActive ≠ (opened .decode .rgb).status.slActive) ∧
      (∃ t, exec (.slBegin 6 8 .encode) { s16 with arg := 1 } = .next t ∧ t.status.dir ≠ s16.status.dir) ∧
      (∃ t, exec (.slPushw 4) { opened .decode .rgb with arg := 0x1E140A02 } = .next t ∧ t.status.hasRow = true ∧
        t.status.ftype ≠ (opened .decode .rgb).status.ftype) :=
  ⟨⟨_, rfl, by decide, by decide⟩, ⟨_, rfl, by decide⟩, ⟨_, rfl, by decide⟩, ⟨_, rfl, by decide⟩, ⟨_, rfl, by decide, by decide⟩⟩

/-- An error that changes the record only, and an `E_FILTER` that aborts after one byte was taken. -/
theorem witness_ErrorsArePrecise :
    (∃ t, execute 0x24000000 s16 = .next t ∧ s16.status.err = false ∧ t.status.err = true) ∧
      ∃ t, execute 0x22000001 { rgbRow with slCol := 3, arg := 0x00000500 } = .next t ∧ t.status.err = true ∧ t.slRow = 2 :=
  ⟨⟨_, rfl, by decide, by decide⟩, ⟨_, rfl, by decide, by decide⟩⟩

/-- One state and word per row of R127, with the code as a host reads it; `E_FILTER` once for each command that raises it. -/
theorem witness_EachCommandRaisesOnlyItsErrors :
    (let raises := fun (w : Word) (s : State) (code : Word) =>
      s.status.err = false ∧ ends (execute w s) (fun t => t.status.err = true ∧ t.errInfo.toWord &&& 0xFF = code)
     raises 0x310000FF s16 0x01 ∧ raises 0x21000005 (opened .decode .rgb) 0x01 ∧
       raises 0x22000001 { rgbRow with slCol := 3, arg := 0x00000500 } 0x01 ∧ raises 0x20001003 s16 0x02 ∧
       raises 0x7F000000 s16 0x03 ∧ raises 0x21000000 s16 0x04 ∧ raises 0x20000806 s16 0x05 ∧ raises 0x23000000 s16 0x06 ∧
       raises 0x24000000 { rgbRow with slCol := 1 } 0x07) ∧ Inv s16 ∧ s16.status.err = false :=
  ⟨by decide, inv_s16, by decide⟩

theorem witness_CommandsWithoutFailureModesNeverRaise : rgbRow.status.err = false := by decide

theorem witness_OutputRowStaysUntilTheNextRow :
    (Instr.slPush 0).wellFormed = true ∧ rgbRow.status.hasRow = true ∧
      ∃ t, exec (.slPush 0) rgbRow = .next t ∧ t.slRow = rgbRow.slRow := ⟨by decide, by decide, _, rfl, by decide⟩

/-- Steps from a state with the invariant: a command, an error, a released reset. -/
theorem witness_EveryStepKeepsTheInvariant :
    Inv encRow ∧ (∃ t, step encRow = .next t) ∧ ∃ t, step (rgbRow.withFetchWord 32 0x21000004) = .next t :=
  ⟨inv_encRow, ⟨_, rfl⟩, ⟨_, rfl⟩⟩

theorem witness_NoStepStopsFromTheInvariant : Inv rgbRow ∧ Inv rgbaRow ∧ Inv errd := ⟨inv_rgbRow, inv_rgbaRow, inv_errd⟩

theorem witness_ReachableStatesMeetTheRegisterInvariants :
    ∃ t, Reachable t ∧ t.arg = 5 :=
  ⟨_, .step (s := s16.setInbox [.write 32 0x0C 5]) (.start 16 (by decide) (by decide) [.write 32 0x0C 5]) rfl, by decide⟩

theorem witness_UnspecifiedLineBytesCannotBeObserved : Inv (opened .encode .rgba) ∧ Inv encRow := ⟨inv_enc, inv_encRow⟩

theorem witness_PushingARowReconstructsIt :
    Inv rgbRow ∧ rgbRow.status.err = false ∧ rgbRow.status.slActive = true ∧ rgbRow.status.dir = .decode ∧ rgbRow.slCol = 0 ∧
      [5#8, 5, 0].length = rgbRow.rowlen := ⟨inv_rgbRow, by decide, by decide, by decide, by decide, by decide⟩

theorem witness_DecodeAfterEncodeIsTheIdentity :
    let s := { s16 with arg := 1 }
    s.status.err = false ∧ s.lineMax ≤ 2 ^ 28 ∧ 1 ≤ s.arg.toNat ∧ s.arg.toNat ≤ s.lineMax ∧
      [1#8, 2, 3, 255].length = 4 * s.arg.toNat := by decide

/-- A state inside a row meets the invariant as well. -/
theorem inv_inside_a_row : Inv { rgbRow with slCol := 1 } := by
  constructor <;> first | decide | (intro _ i hi; exact absurd hi (by simp))


end Sys2Proof.Tests
end

/-! # `RESULT` changes only by a successful result command or a reset (spec/10_state.md R25) -/

namespace Sys2Proof

open Sys2Proof.Machine

/-! ### What a sequence of pushes keeps -/

/-- `t` differs from `s` at most in the registers and the line buffers of a session, the row flags and the error record: what pushes
may change. -/
def PushKeeps (s t : State) : Prop :=
  t = { s with
    status := t.status
    errInfo := t.errInfo
    errRow := t.errRow
    slRow := t.slRow
    slCol := t.slCol
    prev := t.prev
    cur := t.cur }

theorem PushKeeps.refl (s : State) : PushKeeps s s := rfl

theorem PushKeeps.trans {s t u : State} (hst : PushKeeps s t) (htu : PushKeeps t u) : PushKeeps s u := by
  unfold PushKeeps at hst htu ⊢
  rw [hst] at htu
  exact htu

theorem PushKeeps.result {s t : State} (h : PushKeeps s t) : t.result = s.result := by rw [h]

/-- One push, its byte taken or refused. -/
theorem pushByte_keeps {opc v : Byte} {s t : State} (h : (pushByte opc v s).result = .next t) : PushKeeps s t := by
  cases hp : pushByte opc v s with
  | taken u =>
    rw [hp] at h
    injection h with h
    subst h
    have hu := taken_fields hp
    unfold PushKeeps
    rw [hu]
  | failed u =>
    rw [hp] at h
    injection h with h
    subst h
    obtain ⟨-, -, -, hu⟩ := failed_fields hp
    unfold PushKeeps
    rw [hu]
  | stopped f => rw [hp] at h; cases h

/-- The bytes of `SL.PUSHW`, up to the first that is refused. -/
theorem pushBytes_keeps {opc : Byte} {vs : List Byte} {s t : State} (h : (pushBytes opc vs s).result = .next t) :
    PushKeeps s t := by
  induction vs generalizing s with
  | nil =>
    injection h with h
    subst h
    exact .refl s
  | cons v vs ih =>
    cases hp : pushByte opc v s with
    | taken u =>
      have hu : PushKeeps s u := pushByte_keeps (by rw [hp]; rfl)
      rw [pushBytes, hp] at h
      exact hu.trans (ih h)
    | failed u =>
      rw [pushBytes, hp] at h
      exact pushByte_keeps (by rw [hp]; exact h)
    | stopped f =>
      rw [pushBytes, hp] at h
      cases h

/-! ### `RESULT` after each command with several outcomes, no error being recorded before -/

section
variable {s t : State} (hok : s.status.err = false)
include hok

theorem slBegin_result {ct bd : Byte} {dir : Direction} (h : exec (.slBegin ct bd dir) s = .next t) :
    t.result = s.result := by
  rw [exec_slBegin_of_ok hok] at h
  split at h
  · cases h; rfl
  · split at h <;> cases h <;> rfl

theorem slEnd_result (h : exec .slEnd s = .next t) : t.result = s.result := by
  rw [exec_slEnd_of_ok hok] at h
  split at h
  · cases h; rfl
  · split at h <;> cases h <;> rfl

theorem slPush_result {v : Byte} (h : exec (.slPush v) s = .next t) : t.result = s.result := by
  rw [exec_slPush_of_ok hok] at h
  split at h
  · cases h; rfl
  · exact (pushByte_keeps h).result

theorem slPushw_result {n : Nat} (h : exec (.slPushw n) s = .next t) : t.result = s.result := by
  rw [exec_slPushw_of_ok hok] at h
  split at h
  · cases h; rfl
  · exact (pushBytes_keeps h).result

/-- `SL.READW` raises and keeps `RESULT`, or writes nothing but `RESULT` (R119). -/
theorem slReadw_result {n : Nat} (h : exec (.slReadw n) s = .next t) :
    t.result = s.result ∨ ∃ v, t = s.setResult v := by
  rw [exec_slReadw_of_ok hok] at h
  split at h
  · cases h; exact .inl rfl
  · split at h
    · cases h; exact .inl rfl
    · split at h <;> cases h
      exact .inr ⟨_, rfl⟩

/-- `UNFILT` raises and keeps `RESULT`, or writes nothing but `RESULT` (R97). -/
theorem unfilt_result {v : Byte} (h : exec (.unfilt v) s = .next t) :
    t.result = s.result ∨ ∃ v, t = s.setResult v := by
  rw [exec_unfilt_of_ok hok] at h
  split at h <;> cases h
  · exact .inl rfl
  · exact .inr ⟨_, rfl⟩

end

/-! ### `RESULT` after any command -/

/-- The four commands that write `RESULT` when they succeed (R25). -/
def IsResultCommand (i : Instr) : Prop :=
  (∃ n, i = .crcTab n) ∨ (∃ a b c, i = .paeth a b c) ∨ (∃ ft, i = .unfilt ft) ∨ (∃ n, i = .slReadw n)

/-- While an error is recorded only `SRESET` can change `RESULT` (R131). -/
theorem exec_result_of_err {i : Instr} {s t : State} (herr : s.status.err = true) (h : exec i s = .next t)
    (hi : i ≠ .sreset) : t.result = s.result := by
  by_cases hnop : i = .nop
  · subst hnop; cases h; rfl
  · by_cases hclr : i = .clrerr
    · subst hclr; cases h; rfl
    · rw [exec_of_err herr i hnop hclr hi] at h
      cases h; rfl

/-- With no error recorded, a command other than `SRESET` keeps `RESULT`, or is a result command that writes nothing else. -/
theorem exec_result_of_ok {i : Instr} {s t : State} (hok : s.status.err = false) (h : exec i s = .next t)
    (hi : i ≠ .sreset) : t.result = s.result ∨ IsResultCommand i ∧ ∃ v, t = s.setResult v := by
  cases i with
  | sreset => exact absurd rfl hi
  | nop => cases h; exact .inl rfl
  | clrerr => cases h; exact .inl rfl
  | crcInit | crcByte | crcWord | crcLoad | crcChk =>
    simp only [exec, execCrcInit, execCrcByte, execCrcWord, execCrcLoad, execCrcChk, unlessErr_of_ok hok] at h
    cases h
    exact .inl rfl
  | crcTab n =>
    rw [exec, execCrcTab, unlessErr_of_ok hok] at h
    cases h
    exact .inr ⟨.inl ⟨n, rfl⟩, _, rfl⟩
  | paeth a b c =>
    rw [exec, execPaeth, unlessErr_of_ok hok] at h
    cases h
    exact .inr ⟨.inr (.inl ⟨a, b, c, rfl⟩), _, rfl⟩
  | unfilt v => exact (unfilt_result hok h).imp_right fun hv => ⟨.inr (.inr (.inl ⟨v, rfl⟩)), hv⟩
  | slReadw n => exact (slReadw_result hok h).imp_right fun hv => ⟨.inr (.inr (.inr ⟨n, rfl⟩)), hv⟩
  | slBegin ct bd dir => exact .inl (slBegin_result hok h)
  | slPush v => exact .inl (slPush_result hok h)
  | slPushw n => exact .inl (slPushw_result hok h)
  | slEnd => exact .inl (slEnd_result hok h)

/-- A command that changes `RESULT` is a result command that leaves no error recorded, or `SRESET`. -/
theorem exec_changes_result {i : Instr} {s t : State} (h : exec i s = .next t) (hne : t.result ≠ s.result) :
    IsResultCommand i ∧ t.status.err = false ∨ i = .sreset := by
  by_cases hi : i = .sreset
  · exact .inr hi
  · cases herr : s.status.err with
    | true => exact absurd (exec_result_of_err herr h hi) hne
    | false =>
      obtain ⟨hcmd, v, rfl⟩ := (exec_result_of_ok herr h hi).resolve_left hne
      exact .inl ⟨hcmd, herr⟩

/-! ### `RESULT` at the port -/

theorem busWrite_result (data : Word) (s : State) : busWrite 32 Reg.result.offset data s = .next s := rfl

theorem busRead_result (s : State) : busRead 32 Reg.result.offset s = (s.result, .okay) := rfl

/-- Settles O45, by the case analysis of `exec_changes_result`. -/
theorem resultChangesOnlyBySuccess : Obligations.ResultChangesOnlyBySuccess := by
  refine ⟨fun i s t => exec_changes_result, fun s data => ⟨busWrite_result data s, busRead_result s⟩, rfl, ?_⟩
  intro s t h
  cases h
  exact resetBlock_result s

end Sys2Proof

/-! # What a bus read and a bus write do (spec/20_memory.md R45 to R48) -/

namespace Sys2Proof

open Sys2Proof.Machine

/-! ### A refused access (R47) -/

section
variable {width : Nat} {off : BitVec 8} (hbad : width ≠ 32 ∨ off.toNat % 4 ≠ 0)
include hbad

theorem accessAccepted_of_refused : accessAccepted width off = false := by
  rw [Bool.eq_false_iff, Ne, accessAccepted_iff, not_and_or]
  exact hbad

theorem busRead_of_refused (s : State) : busRead width off s = (0, .error) := by
  simp [busRead, accessAccepted_of_refused hbad]

theorem busWriteResp_of_refused : busWriteResp width off = .error := by
  simp [busWriteResp, accessAccepted_of_refused hbad]

theorem busWrite_of_refused (data : Word) (s : State) : busWrite width off data s = .next s := by
  simp [busWrite, accessAccepted_of_refused hbad]

theorem deliver_read_of_refused {s : State} (hrun : s.inReset = false) :
    deliver (.read width off) s = .next (s.respond (.readDone 0 .error)) := by
  rw [deliver_read hrun, busRead_of_refused hbad]

theorem deliver_write_of_refused {s : State} (hrun : s.inReset = false) (data : Word) :
    deliver (.write width off data) s = .next (s.respond (.writeDone .error)) := by
  rw [deliver_write hrun, busWriteResp_of_refused hbad, busWrite_of_refused hbad, answerWrite]

end

/-! ### An accepted access (R45, R46) -/

theorem busRead_offset (r : Reg) (s : State) : busRead 32 r.offset s = (readReg s r, .okay) := by
  have hacc : accessAccepted 32 r.offset = true := by cases r <;> decide
  simp [busRead, hacc, atOffset_offset]

theorem busRead_unmapped {off : BitVec 8} (halign : off.toNat % 4 = 0) (hhigh : 0x34 ≤ off.toNat) (s : State) :
    busRead 32 off s = (0, .okay) := by
  simp [busRead, (accessAccepted_iff 32 off).2 ⟨rfl, halign⟩, atOffset_unmapped hhigh]

theorem busWriteResp_aligned {off : BitVec 8} (halign : off.toNat % 4 = 0) : busWriteResp 32 off = .okay := by
  simp [busWriteResp, (accessAccepted_iff 32 off).2 ⟨rfl, halign⟩]

/-- Only `CMD` and `ARG` react to a write (R46, R49). -/
theorem writeReg_of_ne {r : Reg} (hcmd : r ≠ .cmd) (harg : r ≠ .arg) (data : Word) (s : State) :
    writeReg r data s = .next s := by
  cases r with
  | cmd => exact absurd rfl hcmd
  | arg => exact absurd rfl harg
  | _ => rfl

/-- Away from `CMD` and `ARG` a write has no effect, whether the offset is mapped or not (R46, R48). -/
theorem busWrite_elsewhere {off : BitVec 8} (hcmd : off ≠ Reg.cmd.offset) (harg : off ≠ Reg.arg.offset)
    (width : Nat) (data : Word) (s : State) : busWrite width off data s = .next s := by
  unfold busWrite
  split
  · cases hreg : Reg.atOffset off with
    | none => rfl
    | some r =>
      have hoff : r.offset = off := offset_of_atOffset hreg
      exact writeReg_of_ne (fun h => hcmd (by rw [← hoff, h])) (fun h => harg (by rw [← hoff, h])) data s
  · rfl

/-- Settles O9, by one case per branch of R46. -/
theorem writesActAtCmdAndArgOnly : Obligations.WritesActAtCmdAndArgOnly := by
  intro s width off data hrun
  split
  case isTrue hbad => exact deliver_write_of_refused hbad hrun data
  case isFalse hok =>
    obtain ⟨rfl, halign⟩ : width = 32 ∧ off.toNat % 4 = 0 := by simpa using hok
    rw [deliver_write hrun, busWriteResp_aligned halign]
    split
    case isTrue hcmd =>
      subst hcmd
      rw [show (0x08 : BitVec 8) = Reg.cmd.offset from rfl, busWrite_cmd]
      cases execute data s <;> rfl
    case isFalse hcmd =>
      split
      case isTrue harg =>
        subst harg
        rw [show (0x0C : BitVec 8) = Reg.arg.offset from rfl, busWrite_arg]
        rfl
      case isFalse harg =>
        rw [busWrite_elsewhere hcmd harg]
        rfl

/-- Settles O8: the mapped offsets by `busRead_offset`, one register each. -/
theorem everyRegisterReadsAtItsOffset : Obligations.EveryRegisterReadsAtItsOffset := fun s =>
  ⟨busRead_offset .id s, busRead_offset .cap s, busRead_offset .cmd s, busRead_offset .arg s,
    busRead_offset .result s, busRead_offset .status s, busRead_offset .errinfo s, busRead_offset .errrow s,
    busRead_offset .crcState s, busRead_offset .crcResult s, busRead_offset .slWidth s, busRead_offset .slRow s,
    busRead_offset .slCol s, fun _ halign hhigh => busRead_unmapped halign hhigh s,
    fun _ _ hbad => busRead_of_refused hbad s, fun width off hrun => deliver_read hrun width off⟩

/-- Settles O10: a step is the delivery of the event, which only records the answer. -/
theorem rejectedAccessesChangeNothing : Obligations.RejectedAccessesChangeNothing := by
  intro s rest width off data hbad hrun
  have hrun' : (s.setInbox rest).inReset = false := hrun
  constructor
  · intro hread
    rw [step_event hread, deliver_read_of_refused hbad hrun']
    rfl
  · intro hwrite
    rw [step_event hwrite, deliver_write_of_refused hbad hrun' data]
    rfl

end Sys2Proof

/-! # Which words the opcode map selects, and what an illegal word does (spec/30_encoding.md R64, R65) -/

namespace Sys2Proof

open Sys2Proof.Machine

/-! ### The rows of the opcode map (R64) -/

theorem selects_iff {r : OpRow} {w : Word} : r.selects w = true ↔ w &&& r.mask = r.pattern := beq_iff_eq

/-- At most one row selects a word: a row fixes the opcode byte, and no two rows share one. -/
theorem row_unique_of_selects {r r' : OpRow} {w : Word} (hr : r ∈ opcodeMap) (hr' : r' ∈ opcodeMap)
    (hs : r.selects w = true) (hs' : r'.selects w = true) : r = r' :=
  row_of_opcodeByte hr hr' ((opcodeByte_of_selects hr hs).symm.trans (opcodeByte_of_selects hr' hs'))

theorem mnemonic_build {r : OpRow} (hr : r ∈ opcodeMap) (w : Word) : (r.build w).mnemonic = r.mnemonic := by
  revert r
  simp [opcodeMap, Instr.mnemonic]

theorem opcode_build {r : OpRow} (hr : r ∈ opcodeMap) (w : Word) : (r.build w).opcode = opcodeByte r.pattern := by
  revert r
  simp [opcodeMap, Instr.opcode, opcodeByte]

/-- Settles O4, by `row_unique_of_selects` and the row's own command. -/
theorem opcodeMapSelectsAtMostOneRow : Obligations.OpcodeMapSelectsAtMostOneRow := by
  refine ⟨rfl, fun w r r' hr hr' hs hs' => ?_, fun w r hr hs => ?_, fun w hnone => ?_⟩
  · exact row_unique_of_selects hr hr' (selects_iff.2 hs) (selects_iff.2 hs')
  · exact ⟨r.build w, decode_of_selects hr (selects_iff.2 hs), mnemonic_build hr w⟩
  · exact ⟨_, decode_of_no_row fun r hr => Bool.eq_false_iff.2 (mt selects_iff.1 (hnone r hr))⟩

/-! ### Rows, reserved bits and reserved opcodes -/

/-- A row's mask is its opcode byte and the bits its format marks "0". -/
theorem mask_eq_reservedBits {r : OpRow} (hr : r ∈ opcodeMap) :
    r.mask = 0xFF000000 ||| reservedBits (opcodeByte r.pattern) := by
  revert r
  decide

theorem pattern_eq_append {r : OpRow} (hr : r ∈ opcodeMap) : r.pattern = opcodeByte r.pattern ++ 0#24 := by
  revert r
  decide

/-- No opcode bit is a "0" bit of a format. -/
theorem reservedBits_and_opcode (opc : Byte) : reservedBits opc &&& 0xFF000000 = 0 := by
  unfold reservedBits
  split_ifs <;> rfl

/-- Among the words of its opcode a row selects those whose "0" bits are 0. -/
theorem selects_iff_reservedBits {r : OpRow} {w : Word} (hr : r ∈ opcodeMap)
    (hopc : opcodeByte w = opcodeByte r.pattern) :
    r.selects w = true ↔ w &&& reservedBits (opcodeByte w) = 0 := by
  rw [hopc]
  exact selects_iff_zeros (mask_eq_reservedBits hr) (pattern_eq_append hr) (reservedBits_and_opcode _) hopc

/-- The reserved ranges of R65 are the opcodes without a row. -/
theorem reservedOpcode_iff (opc : Byte) : reservedOpcode opc ↔ ∀ r ∈ opcodeMap, opcodeByte r.pattern ≠ opc := by
  simp only [reservedOpcode, opcodeMap, opcodeByte, BitVec.ofNat_eq_ofNat, List.mem_cons, List.not_mem_nil, or_false,
    forall_eq_or_imp, forall_eq, ne_eq, BitVec.extractLsb'_zero, BitVec.reduceExtractLsb']
  bv_omega

/-! ### The illegal words (R65) -/

theorem decode_illegal_iff {w : Word} :
    (∃ y, decode w = .illegal y) ↔ ∀ r ∈ opcodeMap, r.selects w = false :=
  ⟨fun ⟨_, h⟩ => (decode_illegal h).2, fun h => ⟨_, decode_of_no_row h⟩⟩

theorem illegal_of_reservedOpcode {w : Word} (h : reservedOpcode (opcodeByte w)) : ∃ y, decode w = .illegal y :=
  decode_illegal_iff.2 fun r hr => Bool.eq_false_iff.2 fun hs =>
    (reservedOpcode_iff _).1 h r hr (opcodeByte_of_selects hr hs).symm

/-- A word of an opcode in the map is illegal exactly when a "0" bit of its format is 1. -/
theorem illegal_iff_reservedBits {w : Word} (h : ¬ reservedOpcode (opcodeByte w)) :
    (∃ y, decode w = .illegal y) ↔ w &&& reservedBits (opcodeByte w) ≠ 0 := by
  obtain ⟨r, hr, hopc⟩ : ∃ r ∈ opcodeMap, opcodeByte r.pattern = opcodeByte w := by
    simpa [reservedOpcode_iff] using h
  rw [decode_illegal_iff, Ne, ← selects_iff_reservedBits hr hopc.symm, Bool.not_eq_true]
  constructor
  · exact fun hnone => hnone r hr
  · intro hns r' hr'
    refine Bool.eq_false_iff.2 fun hs' => ?_
    have hrow : r' = r := row_of_opcodeByte hr' hr ((opcodeByte_of_selects hr' hs').symm.trans hopc.symm)
    rw [hrow, hns] at hs'
    cases hs'

theorem illegal_iff (w : Word) :
    (∃ y, decode w = .illegal y) ↔ (reservedOpcode (opcodeByte w) ∨ w &&& reservedBits (opcodeByte w) ≠ 0) := by
  by_cases h : reservedOpcode (opcodeByte w)
  · simp only [h, true_or, iff_true]
    exact illegal_of_reservedOpcode h
  · simp only [h, false_or]
    exact illegal_iff_reservedBits h

theorem execute_illegal {w : Word} {s : State} (hill : ∃ y, decode w = .illegal y) (hok : s.status.err = false) :
    execute w s = .next (raise (opcodeByte w) .illegal 0 0 0 s) := by
  obtain ⟨y, hy⟩ := hill
  simp only [execute, hy, unlessErr_of_ok hok]

/-! ### The words of the commands of format N -/

/-- A command whose format marks every bit below the opcode "0" has one word. -/
theorem eq_encodeN_of_decode {w : Word} {i : Instr} (h : decode w = .command i)
    (hformat : reservedBits i.opcode = 0x00FFFFFF) : w = encodeN i.opcode := by
  obtain ⟨r, hr, hs, rfl⟩ := decode_command h
  rw [opcode_build hr] at hformat ⊢
  have hmask : r.mask = BitVec.allOnes 32 := by
    rw [mask_eq_reservedBits hr, hformat]
    rfl
  calc w = w &&& r.mask := by rw [hmask, BitVec.and_allOnes]
    _ = r.pattern := selects_iff.1 hs
    _ = encodeN (opcodeByte r.pattern) := pattern_eq_append hr

/-- Only the exact words of R131 decode to the commands that an error does not discard. -/
theorem execute_discarded_of_err {w : Word} {s : State} (herr : s.status.err = true) (hnop : w ≠ 0x00000000)
    (hclrerr : w ≠ 0x01000000) (hsreset : w ≠ 0x02000000) : execute w s = .next s :=
  execute_of_err herr w
    ⟨fun h => hnop (eq_encodeN_of_decode h rfl), fun h => hclrerr (eq_encodeN_of_decode h rfl),
      fun h => hsreset (eq_encodeN_of_decode h rfl)⟩

/-- Settles O5, by `illegal_iff` for the words and the discard rule for their effect. -/
theorem illegalWordsRaiseIllegalOrAreDiscarded : Obligations.IllegalWordsRaiseIllegalOrAreDiscarded :=
  ⟨illegal_iff, fun _ _ => execute_illegal, fun _ _ => execute_discarded_of_err⟩

end Sys2Proof

/-! # The control commands `NOP` and `CLRERR` (spec/40_control.md R71, R72) -/

namespace Sys2Proof

open Sys2Proof.Machine

/-! ### The words of an opcode of format N -/

/-- A command's word carries its opcode. -/
theorem opcode_of_decode {w : Word} {i : Instr} (h : decode w = .command i) : i.opcode = opcodeByte w := by
  obtain ⟨r, hr, hs, rfl⟩ := decode_command h
  rw [opcode_build hr, opcodeByte_of_selects hr hs]

/-- An opcode of format N has one legal word (R58, R65). -/
theorem illegal_of_ne_encodeN {w : Word} (hformat : reservedBits (opcodeByte w) = 0x00FFFFFF)
    (hne : w ≠ encodeN (opcodeByte w)) : ∃ y, decode w = .illegal y := by
  cases hd : decode w with
  | illegal y => exact ⟨y, rfl⟩
  | command i =>
    rw [← opcode_of_decode hd] at hformat hne
    exact absurd (eq_encodeN_of_decode hd hformat) hne

/-! ### `NOP` (R71) -/

theorem decode_nop_iff {w : Word} : decode w = .command .nop ↔ w = 0x00000000 := by
  constructor
  · exact fun h => eq_encodeN_of_decode h rfl
  · rintro rfl
    exact Laws.DecodeEncode.nop rfl

theorem execute_nop (s : State) : execute 0x00000000 s = .next s := by
  rw [execute, decode_nop_iff.2 rfl]
  rfl

/-- Settles O16: opcode 0 has format N, so each of its words but 0 is illegal. -/
theorem nopLeavesTheStateUnchanged : Obligations.NopLeavesTheStateUnchanged := by
  intro s
  refine ⟨rfl, execute_nop s, fun w (hopc : opcodeByte w = 0x00) => ⟨decode_nop_iff, fun hne hok => ?_⟩⟩
  have hill : ∃ y, decode w = .illegal y := illegal_of_ne_encodeN (by rw [hopc]; rfl) (by rw [hopc]; exact hne)
  rw [execute_illegal hill hok, hopc]
  rfl

/-! ### `CLRERR` (R72) -/

theorem decode_clrerr : decode 0x01000000 = .command .clrerr := Laws.DecodeEncode.clrerr rfl

theorem exec_clrerr (s : State) : exec .clrerr s = .next (clearErr s) := rfl

theorem append_eq_zero {m n : Nat} {x : BitVec m} {y : BitVec n} (h : x ++ y = 0) : x = 0 ∧ y = 0 := by
  constructor
  · rw [← BitVec.extractLsb'_append_eq_left (a := x) (b := y), h]
    exact BitVec.extractLsb'_zero
  · rw [← BitVec.extractLsb'_append_eq_right (a := x) (b := y), h]
    exact BitVec.extractLsb'_zero

theorem code_eq_none_of_toByte {c : ErrCode} (h : c.toByte = 0) : c = .none := by
  cases c with
  | none => rfl
  | _ => exact absurd h (by decide)

/-- `ERRINFO` reads 0 only with each of its fields 0 (R22). -/
theorem eq_reset_of_toWord_eq_zero {e : ErrInfo} (h : e.toWord = 0) : e = ErrInfo.reset := by
  obtain ⟨code, d0, d1, opc⟩ := e
  obtain ⟨h, hcode⟩ := append_eq_zero h
  obtain ⟨h, rfl⟩ := append_eq_zero h
  obtain ⟨rfl, rfl⟩ := append_eq_zero h
  obtain rfl : code = .none := code_eq_none_of_toByte hcode
  rfl

/-- With no error recorded, R34 item 1 leaves `ClearErr()` nothing to change. -/
theorem Inv.clearErr_eq_self {s : State} (hinv : Inv s) (hok : s.status.err = false) : clearErr s = s := by
  obtain ⟨hword, hrow⟩ := hinv.clear_record hok
  have hinfo : s.errInfo = ErrInfo.reset := eq_reset_of_toWord_eq_zero hword
  have hstatus : s.status.setErr false = s.status := by rw [← hok]; rfl
  calc clearErr s = (s.setStatus s.status).setErrRecord s.errInfo s.errRow := by rw [clearErr, hstatus, hinfo, hrow]
    _ = s := rfl

/-- Settles O17: the corner case, no error recorded, by `Inv.clearErr_eq_self`. -/
theorem clrerrClearsTheErrorRecord : Obligations.ClrerrClearsTheErrorRecord := by
  refine ⟨decode_clrerr, fun s => ⟨rfl, ?_, fun hinv hok => ?_⟩⟩
  · rw [execute, decode_clrerr]
  · rw [exec_clrerr, hinv.clearErr_eq_self hok]

end Sys2Proof

/-! # `CRC.INIT`, `CRC.LOAD` and `CRC.CHK` (spec/41_crc.md R85, R88, R89) -/

namespace Sys2Proof

open Sys2Proof.Machine

/-- The words of a command of format N (R58), `NOP`, `CLRERR` and `SRESET` aside: every bit below the opcode is a "0" bit. -/
theorem commandWords_formatN {m : String} {opc : Byte} {i : Instr}
    (hrow : (⟨m, opc ++ 0#24, 0xFFFFFFFF, fun _ => i⟩ : OpRow) ∈ opcodeMap)
    (hi : i ≠ .nop ∧ i ≠ .clrerr ∧ i ≠ .sreset) : CommandWords opc 0x00FFFFFF (fun _ => i) :=
  commandWords_of_row hrow rfl rfl rfl fun _ => hi

theorem commandWords_crcInit : CommandWords 0x10 0x00FFFFFF (fun _ => .crcInit) :=
  commandWords_formatN (m := "CRC.INIT") (by simp [opcodeMap]) (by decide)

theorem commandWords_crcLoad : CommandWords 0x13 0x00FFFFFF (fun _ => .crcLoad) :=
  commandWords_formatN (m := "CRC.LOAD") (by simp [opcodeMap]) (by decide)

theorem commandWords_crcChk : CommandWords 0x14 0x00FFFFFF (fun _ => .crcChk) :=
  commandWords_formatN (m := "CRC.CHK") (by simp [opcodeMap]) (by decide)

/-! ### Their effect, no error being recorded -/

section
variable {s : State} (hok : s.status.err = false)
include hok

theorem exec_crcInit_of_ok : exec .crcInit s = .next (s.setCrcState crcInitial) := by
  rw [exec, execCrcInit, unlessErr_of_ok hok]

theorem exec_crcLoad_of_ok : exec .crcLoad s = .next (s.setCrcState s.arg) := by
  rw [exec, execCrcLoad, unlessErr_of_ok hok]

theorem exec_crcChk_of_ok :
    exec .crcChk s = .next (s.setStatus (s.status.setCrcMatch (s.crcResult == s.arg))) := by
  rw [exec, execCrcChk, unlessErr_of_ok hok]

end

/-- Settles O19, by the words of format N and the discard rule. -/
theorem crcInitAndLoadSetTheRegister : Obligations.CrcInitAndLoadSetTheRegister :=
  ⟨commandWords_crcInit, commandWords_crcLoad, fun _ hok => ⟨exec_crcInit_of_ok hok, exec_crcLoad_of_ok hok⟩⟩

/-- Settles O22: the checksum compared is the derived register `CRC_RESULT` (R27). -/
theorem crcChkComparesTheChecksum : Obligations.CrcChkComparesTheChecksum :=
  ⟨commandWords_crcChk, fun _ hok => exec_crcChk_of_ok hok⟩

end Sys2Proof

/-! # `PAETH` and `UNFILT` (spec/42_predictor.md R96, R97) -/

namespace Sys2Proof

open Sys2Proof.Machine

/-! ### The fields of a value placed in the low bits of a wider one -/

theorem extractLsb'_low_of_setWidth_append {m n w : Nat} (hi : BitVec m) (lo : BitVec n) (h : n ≤ w) :
    ((hi ++ lo).setWidth w).extractLsb' 0 n = lo := by
  rw [BitVec.extractLsb'_setWidth_of_le (by omega), BitVec.extractLsb'_append_eq_right]

theorem extractLsb'_high_of_setWidth_append {m n w : Nat} (hi : BitVec m) (lo : BitVec n) (h : n + m ≤ w) :
    ((hi ++ lo).setWidth w).extractLsb' n m = hi := by
  rw [BitVec.extractLsb'_setWidth_of_le h, BitVec.extractLsb'_append_eq_left]

theorem extractLsb'_above_of_setWidth {n : Nat} (v : BitVec n) (w k : Nat) :
    (v.setWidth w).extractLsb' n k = 0 := by
  refine BitVec.eq_of_getLsbD_eq fun i _ => ?_
  simp

/-! ### `PAETH` (R96) -/

/-- `PAETH` marks no bit of its word "0" (R60). -/
theorem commandWords_paeth :
    CommandWords 0x30 0x00000000 (fun w => .paeth (fieldLow w) (fieldMid w) (fieldHigh w)) :=
  commandWords_of_row
    (r := ⟨"PAETH", 0x30000000, 0xFF000000, fun w => .paeth (fieldLow w) (fieldMid w) (fieldHigh w)⟩)
    (by simp [opcodeMap]) rfl rfl rfl (by simp)

theorem exec_paeth_of_ok {s : State} (hok : s.status.err = false) (a b c : Byte) :
    exec (.paeth a b c) s = .next (s.setResult (((paethSel a b c).code ++ paethValue a b c).setWidth 32)) := by
  rw [exec, execPaeth, unlessErr_of_ok hok]

theorem selCode_ne_three (sel : PaethSel) : sel.code ≠ 3 := by
  cases sel <;> decide

/-- The estimate of three equal operands is that operand, at distance 0. -/
theorem paethSel_self (a : Byte) : paethSel a a a = .a := by
  have hdist : paethDistance a a a a = 0 := by
    unfold paethDistance paethEstimate
    omega
  simp [paethSel, hdist]

/-- Settles O28, by the two fields packed in `RESULT`; equal operands by `paethSel_self`. -/
theorem paethCommandGivesValueAndSelection : Obligations.PaethCommandGivesValueAndSelection := by
  refine ⟨commandWords_paeth, fun s a b c hok => ?_⟩
  have hcode := extractLsb'_high_of_setWidth_append (w := 32) (paethSel a b c).code (paethValue a b c) (by decide)
  refine ⟨_, exec_paeth_of_ok hok a b c, ?value, hcode, ?above, selCode_ne_three _, ?equal⟩
  case value => exact extractLsb'_low_of_setWidth_append _ _ (by decide)
  case above => exact extractLsb'_above_of_setWidth _ 32 22
  case equal =>
    rintro rfl rfl
    rw [hcode, paethSel_self]
    rfl

/-! ### `UNFILT` (R97) -/

theorem commandWords_unfilt : CommandWords 0x31 0x00FFFF00 (fun w => .unfilt (fieldLow w)) :=
  commandWords_of_row (r := ⟨"UNFILT", 0x31000000, 0xFFFFFF00, fun w => .unfilt (fieldLow w)⟩)
    (by simp [opcodeMap]) rfl rfl rfl (by simp)

section
variable {s : State} (hok : s.status.err = false)
include hok

theorem exec_unfilt_toByte (ft : FilterType) :
    exec (.unfilt ft.toByte) s =
      .next (s.setResult ((recon ft (unfiltX s.arg) (unfiltA s.arg) (unfiltB s.arg) (unfiltC s.arg)).setWidth 32)) := by
  rw [exec_unfilt_of_ok hok, FilterType.ofByte_toByte]

theorem exec_unfilt_unknown {v : Byte} (hv : 4 < v.toNat) :
    exec (.unfilt v) s = .next (raise 0x31 .filter v 0 0 s) := by
  rw [exec_unfilt_of_ok hok, (FilterType.ofByte_eq_none v).2 hv]

end

/-- Settles O32: a byte names a filter type, or is above 4 and names none (R92). -/
theorem unfiltReconstructsOrRaisesFilter : Obligations.UnfiltReconstructsOrRaisesFilter :=
  ⟨commandWords_unfilt, fun _ ft hok => exec_unfilt_toByte hok ft, fun _ _ hok hv => exec_unfilt_unknown hok hv⟩

end Sys2Proof

/-! # `SL.READW` and `SL.END` (spec/43_scanline.md R118 to R120) -/

namespace Sys2Proof

open Sys2Proof.Machine

/-! ### The bytes of the output row (R118) -/

theorem Machine.State.rowByte_of_lt {s : State} {i : Nat} (h : i < s.capacity) : s.rowByte i = some (s.lineByte .prev i) :=
  if_pos h

/-- Byte `k` of pixel `x` lies in the row when the pixel does and has that byte. -/
theorem Machine.State.pixelByte_lt_rowlen {s : State} {x k : Nat} (hx : x < s.slWidth.toNat) (hk : k < s.status.bpp.toNat) :
    x * s.status.bpp.toNat + k < s.rowlen :=
  calc x * s.status.bpp.toNat + k < (x + 1) * s.status.bpp.toNat := by rw [Nat.succ_mul]; omega
    _ ≤ s.rowlen := Nat.mul_le_mul_right _ hx

/-- Every position of the output row reads a byte inside `PREV`, or a constant. -/
theorem Inv.exists_outByte {s : State} (hinv : Inv s) {j : Nat} (hj : j < s.outLen) : ∃ b, s.outByte j = some b := by
  have hcap := hinv.rowlen_le_capacity
  cases hdir : s.status.dir with
  | decode =>
    simp only [State.outLen, hdir] at hj
    simp only [State.outByte, hdir]
    split
    case isTrue hk =>
      have hx : j / 4 < s.slWidth.toNat := by omega
      exact ⟨_, State.rowByte_of_lt ((State.pixelByte_lt_rowlen hx hk).trans_le hcap)⟩
    case isFalse => exact ⟨_, rfl⟩
  | encode =>
    rw [hinv.rowlen_encode hdir] at hcap
    simp only [State.outLen, hdir] at hj
    simp only [State.outByte, hdir]
    split
    case isTrue => exact ⟨_, rfl⟩
    case isFalse hne => exact ⟨_, State.rowByte_of_lt (by omega)⟩

/-- `n` consecutive output bytes, each of which exists, as one list. -/
theorem Machine.State.exists_outBytes {s : State} {n i : Nat} (h : ∀ k, k < n → ∃ b, s.outByte (i + k) = some b) :
    ∃ bs, s.outBytes i n = some bs ∧ bs.length = n ∧ ∀ k (hk : k < bs.length), s.outByte (i + k) = some bs[k] := by
  induction n generalizing i with
  | zero => exact ⟨[], rfl, rfl, fun k hk => absurd hk (Nat.not_lt_zero k)⟩
  | succ n ih =>
    obtain ⟨b, hb⟩ := h 0 (Nat.succ_pos n)
    have hshift : ∀ k, i + 1 + k = i + (k + 1) := by omega
    obtain ⟨bs, hbs, hlen, hget⟩ := ih (i := i + 1) fun k hk => hshift k ▸ h (k + 1) (Nat.succ_lt_succ hk)
    refine ⟨b :: bs, ?_, congrArg (· + 1) hlen, fun k hk => ?_⟩
    · rw [Nat.add_zero] at hb
      simp only [State.outBytes, hb, hbs]
    · cases k with
      | zero => exact hb
      | succ k => exact hshift k ▸ hget k (Nat.lt_of_succ_lt_succ hk)

/-! ### `SL.READW` (R119) -/

theorem commandWords_slReadw : CommandWords 0x23 0x00FFFFFC (fun w => .slReadw (fieldCount w)) :=
  commandWords_of_row (r := ⟨"SL.READW", 0x23000000, 0xFFFFFFFC, fun w => .slReadw (fieldCount w)⟩)
    (by simp [opcodeMap]) rfl rfl rfl (by simp)

section
variable {s : State} {n : Nat} (hok : s.status.err = false)
include hok

theorem exec_slReadw_index (h : s.status.hasRow = false ∨ s.outLen < s.arg.toNat + n) :
    exec (.slReadw n) s = .next (raise 0x23 .index 0 0 0 s) := by
  rw [exec_slReadw_of_ok hok]
  split
  case isTrue => rfl
  case isFalse hrow => rw [if_pos (h.resolve_left hrow)]

theorem exec_slReadw_of_outBytes {bs : List Byte} (hrow : s.status.hasRow = true) (hlen : s.arg.toNat + n ≤ s.outLen)
    (hbs : s.outBytes s.arg.toNat n = some bs) : exec (.slReadw n) s = .next (s.setResult (packBytes bs)) := by
  rw [exec_slReadw_of_ok hok, if_neg (by simp [hrow]), if_neg (Nat.not_lt.mpr hlen), hbs]

end

/-- Settles O39: the bytes read exist by `Inv.exists_outByte`, and `RESULT` packs them. -/
theorem slReadwReadsTheOutputRowOrRaisesIndex : Obligations.SlReadwReadsTheOutputRowOrRaisesIndex := by
  refine ⟨commandWords_slReadw, fun _ _ => exec_slReadw_index, ?_⟩
  intro s n hinv hok hrow _ hn hend
  obtain ⟨bs, hbs, rfl, hget⟩ := State.exists_outBytes (s := s) (i := s.arg.toNat) (n := n) fun k hk =>
    hinv.exists_outByte (by omega)
  refine ⟨packBytes bs, exec_slReadw_of_outBytes hok hrow hend hbs, fun k hk => ?_, packBytes_high bs⟩
  rw [hget k hk, ← byteOf_packBytes bs k hk hn, byteOf]

/-! ### `SL.END` (R120) -/

theorem commandWords_slEnd : CommandWords 0x24 0x00FFFFFF (fun _ => .slEnd) :=
  commandWords_formatN (m := "SL.END") (by simp [opcodeMap]) (by decide)

section
variable {s : State} (hok : s.status.err = false)
include hok

theorem exec_slEnd_without_session (hact : s.status.slActive = false) :
    exec .slEnd s = .next (raise 0x24 .state 0 0 0 s) := by
  rw [exec_slEnd_of_ok hok, if_pos hact]

theorem exec_slEnd_inside_row (hact : s.status.slActive = true) (hcol : s.slCol ≠ 0) :
    exec .slEnd s = .next (raise 0x24 .partialRow 0 0 0 s) := by
  rw [exec_slEnd_of_ok hok, if_neg (by simp [hact]), if_pos hcol]

theorem exec_slEnd_between_rows (hact : s.status.slActive = true) (hcol : s.slCol = 0) :
    exec .slEnd s = .next (s.setStatus (s.status.setSlActive false)) := by
  rw [exec_slEnd_of_ok hok, if_neg (by simp [hact]), if_neg (not_not_intro hcol)]

end

/-- Settles O41, by the three states of a session: none, inside a row, between rows. -/
theorem slEndClosesBetweenRows : Obligations.SlEndClosesBetweenRows :=
  ⟨commandWords_slEnd, fun _ hok =>
    ⟨exec_slEnd_without_session hok, exec_slEnd_inside_row hok, exec_slEnd_between_rows hok⟩⟩

end Sys2Proof

/-! # Commands that never raise, and what goes on while an error is recorded (spec/60_exceptions.md R128, R131) -/

namespace Sys2Proof

open Sys2Proof.Machine

/-! ### Commands without a failure mode (R128) -/

section
variable {s : State} (hok : s.status.err = false)
include hok

theorem exec_crcByte_of_ok (v : Byte) : exec (.crcByte v) s = .next (s.setCrcState (crcUpdate s.crcState v)) := by
  rw [exec, execCrcByte, unlessErr_of_ok hok]

theorem exec_crcWord_of_ok (n : Nat) :
    exec (.crcWord n) s = .next (s.setCrcState (crcFold s.crcState (bytesOf n s.arg))) := by
  rw [exec, execCrcWord, unlessErr_of_ok hok]

theorem exec_crcTab_of_ok (idx : Byte) : exec (.crcTab idx) s = .next (s.setResult (crcTable idx)) := by
  rw [exec, execCrcTab, unlessErr_of_ok hok]

end

/-- Settles O50: no rule of the ten records an error, and `CRC.CHK` writes another bit of `STATUS`. -/
theorem commandsWithoutFailureModesNeverRaise : Obligations.CommandsWithoutFailureModesNeverRaise := by
  rintro i s hok
    (rfl | ⟨v, rfl⟩ | ⟨n, rfl⟩ | rfl | rfl | ⟨idx, rfl⟩ | rfl | rfl | rfl | ⟨a, b, c, rfl⟩)
  · exact ⟨_, exec_crcInit_of_ok hok, hok⟩
  · exact ⟨_, exec_crcByte_of_ok hok v, hok⟩
  · exact ⟨_, exec_crcWord_of_ok hok n, hok⟩
  · exact ⟨_, exec_crcLoad_of_ok hok, hok⟩
  · exact ⟨_, exec_crcChk_of_ok hok, hok⟩
  · exact ⟨_, exec_crcTab_of_ok hok idx, hok⟩
  · exact ⟨s, rfl, hok⟩
  · exact ⟨_, exec_clrerr s, rfl⟩
  · exact ⟨_, rfl, rfl⟩
  · exact ⟨_, exec_paeth_of_ok hok a b c, hok⟩

/-! ### What goes on while an error is recorded (R131) -/

theorem execute_clrerr (s : State) : execute 0x01000000 s = .next (clearErr s) := by
  rw [execute, decode_clrerr]
  rfl

theorem decode_sreset : decode 0x02000000 = .command .sreset := Laws.DecodeEncode.sreset rfl

theorem execute_sreset (s : State) : execute 0x02000000 s = .next (resetBlock s) := by
  rw [execute, decode_sreset]
  rfl

/-- Settles O6: the three words by name, the others by `execute_discarded_of_err`, and an access at the port does not look at
`STATUS.ERR`. -/
theorem commandsAreDiscardedWhileAnErrorStands : Obligations.CommandsAreDiscardedWhileAnErrorStands := by
  intro s herr
  refine ⟨execute_nop s, execute_clrerr s, execute_sreset s, fun w => execute_discarded_of_err herr,
    fun v => busWrite_arg v s, fun width off => ?_⟩
  split
  case isTrue hacc =>
    have haccepted : accessAccepted width off = true := (accessAccepted_iff width off).2 hacc
    cases hreg : Reg.atOffset off <;> simp [busRead, haccepted, hreg]
  case isFalse hbad => exact busRead_of_refused (not_and_or.1 hbad) s

end Sys2Proof

/-! # Which errors a word raises, and what they change (spec/60_exceptions.md R127, R132) -/

namespace Sys2Proof

open Sys2Proof.Machine

/-! ### The causes of an error (R127) -/

/-- What makes the rule of `d` raise an error of row 0 in `s`, with its code and detail bytes: the table of R127 but for the `E_FILTER`
of a push. -/
inductive RaiseCause (s : State) : Decoded → ErrCode → Byte → Byte → Prop
  | illegal (y : Illegal) : RaiseCause s (.illegal y) .illegal 0 0
  | filter {v : Byte} (hv : FilterType.ofByte v = Option.none) : RaiseCause s (.command (.unfilt v)) .filter v 0
  | header {ct bd : Byte} {dir : Direction} (hbad : headerAccepted ct bd dir = false) :
      RaiseCause s (.command (.slBegin ct bd dir)) .unsupported ct bd
  | width {ct bd : Byte} {dir : Direction} (hheader : headerAccepted ct bd dir = true) (hbad : s.arg = 0 ∨ s.lineMax < s.arg.toNat) :
      RaiseCause s (.command (.slBegin ct bd dir)) .width 0 0
  | index {n : Nat} (hbad : s.status.hasRow = false ∨ s.outLen < s.arg.toNat + n) :
      RaiseCause s (.command (.slReadw n)) .index 0 0
  | pushClosed (v : Byte) (hact : s.status.slActive = false) : RaiseCause s (.command (.slPush v)) .state 0 0
  | pushwClosed (n : Nat) (hact : s.status.slActive = false) : RaiseCause s (.command (.slPushw n)) .state 0 0
  | endClosed (hact : s.status.slActive = false) : RaiseCause s (.command .slEnd) .state 0 0
  | endInsideRow (hact : s.status.slActive = true) (hcol : s.slCol ≠ 0) :
      RaiseCause s (.command .slEnd) .partialRow 0 0

/-- `t` is `s` with an error of row 0 recorded, for one of the causes of the table. -/
def Recorded (d : Decoded) (opc : Byte) (s t : State) : Prop :=
  ∃ code d0 d1, RaiseCause s d code d0 d1 ∧ t = raise opc code d0 d1 0 s

/-! ### What a command that raises leaves behind -/

section
variable {s t : State} (hok : s.status.err = false) (herr : t.status.err = true)
include hok herr

theorem unfilt_recorded {v : Byte} (h : exec (.unfilt v) s = .next t) : Recorded (.command (.unfilt v)) 0x31 s t := by
  rw [exec_unfilt_of_ok hok] at h
  split at h <;> cases h
  case h_1 hv => exact ⟨_, _, _, .filter hv, rfl⟩
  case h_2 => cases hok.symm.trans herr

theorem slBegin_recorded {ct bd : Byte} {dir : Direction} (h : exec (.slBegin ct bd dir) s = .next t) :
    Recorded (.command (.slBegin ct bd dir)) 0x20 s t := by
  rw [exec_slBegin_of_ok hok] at h
  split at h
  case isTrue hheader =>
    cases h
    exact ⟨_, _, _, .header hheader, rfl⟩
  case isFalse hheader =>
    split at h <;> cases h
    case isTrue hwidth => exact ⟨_, _, _, .width (Bool.eq_true_of_not_eq_false hheader) hwidth, rfl⟩
    case isFalse => cases hok.symm.trans herr

theorem slReadw_recorded {n : Nat} (h : exec (.slReadw n) s = .next t) :
    Recorded (.command (.slReadw n)) 0x23 s t := by
  by_cases hbad : s.status.hasRow = false ∨ s.outLen < s.arg.toNat + n
  · rw [exec_slReadw_index hok hbad] at h
    cases h
    exact ⟨_, _, _, .index hbad, rfl⟩
  · obtain ⟨hrow, hend⟩ := not_or.1 hbad
    rw [exec_slReadw_of_ok hok, if_neg hrow, if_neg hend] at h
    split at h <;> cases h
    cases hok.symm.trans herr

theorem slEnd_recorded (h : exec .slEnd s = .next t) : Recorded (.command .slEnd) 0x24 s t := by
  cases hact : s.status.slActive with
  | false =>
    rw [exec_slEnd_without_session hok hact] at h
    cases h
    exact ⟨_, _, _, .endClosed hact, rfl⟩
  | true =>
    by_cases hcol : s.slCol = 0
    · rw [exec_slEnd_between_rows hok hact hcol] at h
      cases h
      cases hok.symm.trans herr
    · rw [exec_slEnd_inside_row hok hact hcol] at h
      cases h
      exact ⟨_, _, _, .endInsideRow hact hcol, rfl⟩

end

/-! ### A push that is refused (R110, R115) -/

theorem pushBytes_cons_of_taken {opc v : Byte} {s t : State} (h : pushByte opc v s = .taken t) (vs : List Byte) :
    pushBytes opc (v :: vs) s = pushBytes opc vs t := by
  rw [pushBytes, h]

/-- Bytes are all taken when the first is and then the others are. -/
theorem taken_of_pushBytes_cons {opc v : Byte} {vs : List Byte} {s t : State}
    (h : pushBytes opc (v :: vs) s = .taken t) :
    ∃ u, pushByte opc v s = .taken u ∧ pushBytes opc vs u = .taken t := by
  rw [pushBytes] at h
  split at h
  case h_1 u hu => exact ⟨u, hu, h⟩
  case h_2 => cases h
  case h_3 => cases h

/-- Bytes that are taken leave every field of `STATUS` but the row flags as it was. -/
theorem pushBytes_taken_status {opc : Byte} {vs : List Byte} {s t : State} (h : pushBytes opc vs s = .taken t) :
    t.status = { s.status with hasRow := t.status.hasRow, ftype := t.status.ftype } := by
  induction vs generalizing s with
  | nil =>
    cases h
    rfl
  | cons v vs ih =>
    obtain ⟨u, hu, hrest⟩ := taken_of_pushBytes_cons h
    rw [ih hrest, taken_fields hu]

/-- A sequence of pushes that fails took its first `k` bytes and refused the next. -/
theorem pushBytes_failed {opc : Byte} {vs : List Byte} {s t : State} (h : pushBytes opc vs s = .failed t) :
    ∃ (k : Nat) (hk : k < vs.length) (u : State),
      pushBytes opc (vs.take k) s = .taken u ∧ pushByte opc vs[k] u = .failed t := by
  induction vs generalizing s with
  | nil => cases h
  | cons v vs ih =>
    cases hp : pushByte opc v s with
    | taken u =>
      rw [pushBytes_cons_of_taken hp] at h
      obtain ⟨k, hk, u', htaken, hfailed⟩ := ih h
      exact ⟨k + 1, Nat.succ_lt_succ hk, u', (pushBytes_cons_of_taken hp _).trans htaken, hfailed⟩
    | failed u =>
      rw [pushBytes, hp] at h
      cases h
      exact ⟨0, Nat.succ_pos _, s, rfl, hp⟩
    | stopped f => rw [pushBytes, hp] at h; cases h

/-- A byte is taken or not whatever the opcode of the command. -/
theorem pushByte_taken_opcode {opc v : Byte} {s t : State} (h : pushByte opc v s = .taken t) (opc' : Byte) :
    pushByte opc' v s = .taken t := by
  rcases pushByte_opcode opc opc' v s with ⟨u, hu, hu'⟩ | ⟨u, hu, -⟩ | ⟨f, hf, -⟩
  · exact hu'.trans (hu.symm.trans h)
  · cases hu.symm.trans h
  · cases hf.symm.trans h

/-- Bytes that are taken are taken by as many single pushes. -/
theorem execAll_slPush_of_taken {opc : Byte} {vs : List Byte} {s t : State} (hok : s.status.err = false)
    (hact : s.status.slActive = true) (h : pushBytes opc vs s = .taken t) : execAll (vs.map .slPush) s = .next t := by
  induction vs generalizing s with
  | nil =>
    cases h
    rfl
  | cons v vs ih =>
    obtain ⟨u, hu, hrest⟩ := taken_of_pushBytes_cons h
    have hexec : exec (.slPush v) s = .next u := by
      rw [exec_slPush_result hok hact, pushByte_taken_opcode hu, Push.result]
    rw [List.map_cons, execAll, hexec]
    exact ih (by rw [taken_fields hu]; exact hok) (by rw [taken_fields hu]; exact hact) hrest

theorem length_bytesOf (n : Nat) (v : Word) : (bytesOf n v).length = n := by
  rw [bytesOf, List.length_map, List.length_range]

theorem take_bytesOf {k n : Nat} (h : k ≤ n) (v : Word) : (bytesOf n v).take k = bytesOf k v := by
  rw [bytesOf, ← List.map_take, List.take_range, Nat.min_eq_left h, bytesOf]

/-- The bytes of `SL.PUSHW` refused at byte `k`: what came before it, and the state the abort leaves. -/
theorem pushw_failed {opc : Byte} {n : Nat} {s t : State} (h : pushBytes opc (bytesOf n s.arg) s = .failed t) :
    ∃ k u, k < n ∧ pushBytes opc (bytesOf k s.arg) s = .taken u ∧ pushByte opc (byteOf k s.arg) u = .failed t := by
  obtain ⟨k, hk, u, htaken, hfailed⟩ := pushBytes_failed h
  rw [length_bytesOf] at hk
  rw [take_bytesOf hk.le] at htaken
  refine ⟨k, u, hk, htaken, ?_⟩
  simpa [bytesOf] using hfailed

/-- A push that ends in a state was taken or refused. -/
theorem taken_or_failed_of_result {p : Push} {t : State} (h : p.result = .next t) : p = .taken t ∨ p = .failed t := by
  cases p with
  | taken u => cases h; exact .inl rfl
  | failed u => cases h; exact .inr rfl
  | stopped f => cases h

section
variable {s t : State} (hok : s.status.err = false) (herr : t.status.err = true)
include hok herr

theorem slPush_raises {v : Byte} (h : exec (.slPush v) s = .next t) :
    Recorded (.command (.slPush v)) 0x21 s t ∨ pushByte 0x21 v s = .failed t := by
  cases hact : s.status.slActive with
  | false =>
    rw [exec_slPush_of_ok hok, if_pos hact] at h
    cases h
    exact .inl ⟨_, _, _, .pushClosed v hact, rfl⟩
  | true =>
    rw [exec_slPush_result hok hact] at h
    refine .inr ((taken_or_failed_of_result h).resolve_left fun htaken => ?_)
    rw [taken_fields htaken] at herr
    cases hok.symm.trans herr

theorem slPushw_raises {n : Nat} (h : exec (.slPushw n) s = .next t) :
    Recorded (.command (.slPushw n)) 0x22 s t ∨
      s.status.slActive = true ∧ pushBytes 0x22 (bytesOf n s.arg) s = .failed t := by
  cases hact : s.status.slActive with
  | false =>
    rw [exec_slPushw_of_ok hok, if_pos hact] at h
    cases h
    exact .inl ⟨_, _, _, .pushwClosed n hact, rfl⟩
  | true =>
    rw [exec_slPushw_result hok hact] at h
    refine .inr ⟨rfl, (taken_or_failed_of_result h).resolve_left fun htaken => ?_⟩
    rw [pushBytes_taken_status htaken] at herr
    cases hok.symm.trans herr

/-! ### Every raise, by the word -/

/-- A word that raises records an error of row 0 and nothing else, or is a push with a byte refused. -/
theorem execute_raises {w : Word} (h : execute w s = .next t) :
    Recorded (decode w) (opcodeByte w) s t ∨
    (∃ v, decode w = .command (.slPush v) ∧ pushByte (opcodeByte w) v s = .failed t) ∨
    (∃ n, decode w = .command (.slPushw n) ∧ s.status.slActive = true ∧
      pushBytes (opcodeByte w) (bytesOf n s.arg) s = .failed t) := by
  cases hd : decode w with
  | illegal y =>
    rw [execute_illegal ⟨y, hd⟩ hok] at h
    cases h
    exact .inl ⟨_, _, _, .illegal y, rfl⟩
  | command i =>
    have hexec : exec i s = .next t := by rwa [execute, hd] at h
    rw [← opcode_of_decode hd]
    have hraised : ¬ ∃ u, exec i s = .next u ∧ u.status.err = false := by
      rintro ⟨u, hu, hclear⟩
      cases hu.symm.trans hexec
      cases hclear.symm.trans herr
    cases i with
    | unfilt v => exact .inl (unfilt_recorded hok herr hexec)
    | slBegin ct bd dir => exact .inl (slBegin_recorded hok herr hexec)
    | slReadw n => exact .inl (slReadw_recorded hok herr hexec)
    | slEnd => exact .inl (slEnd_recorded hok herr hexec)
    | slPush v => exact (slPush_raises hok herr hexec).imp_right fun hfailed => .inl ⟨v, rfl, hfailed⟩
    | slPushw n => exact (slPushw_raises hok herr hexec).imp_right fun hfailed => .inr ⟨n, rfl, hfailed⟩
    | _ => exact absurd (commandsWithoutFailureModesNeverRaise _ s hok (by simp)) hraised

end

/-- Settles O48, by `execute_raises`; the state before the refused byte of `SL.PUSHW` by `execAll_slPush_of_taken`. -/
theorem errorsArePrecise : Obligations.ErrorsArePrecise := by
  intro w s t h hok herr
  obtain ⟨code, d0, d1, -, rfl⟩ | ⟨v, hd, hfailed⟩ | ⟨n, hd, hact, hfailed⟩ := execute_raises hok herr h
  · exact .inl rfl
  · obtain ⟨-, -, -, rfl⟩ := failed_fields hfailed
    exact .inr ⟨rfl, .inl ⟨v, hd, rfl⟩⟩
  · obtain ⟨k, u, hk, htaken, hfailed⟩ := pushw_failed hfailed
    have hsingle := execAll_slPush_of_taken hok hact htaken
    have huok : u.status.err = false := by rw [pushBytes_taken_status htaken]; exact hok
    obtain ⟨-, -, -, rfl⟩ := failed_fields hfailed
    rw [bytesOf, List.map_map] at hsingle
    exact .inr ⟨rfl, .inr ⟨n, k, u, hd, hk, hsingle, huok, rfl⟩⟩

/-! ### The record as a host reads it (R22, R127) -/

theorem opcodeByte_encodeP (opc c b a : Byte) : opcodeByte (encodeP opc c b a) = opc := by
  ext i hi
  simp [opcodeByte, getLsbD_encodeP, show ¬ 24 + i < 8 by omega, show ¬ 24 + i < 16 by omega,
    BitVec.getLsbD_eq_getElem hi]

/-- `ERRINFO` has the layout of a word of format P. -/
theorem opcodeByte_toWord (e : ErrInfo) : opcodeByte e.toWord = e.opc :=
  opcodeByte_encodeP e.opc e.d1 e.d0 e.code.toByte

theorem fieldLow_toWord (e : ErrInfo) : fieldLow e.toWord = e.code.toByte :=
  fieldLow_encodeP e.opc e.d1 e.d0 e.code.toByte

theorem errCode_toByte_lt (c : ErrCode) : c.toByte.toNat < 0x08 := by
  cases c <;> decide

/-- The headers refused, written out (R105). -/
theorem not_accepted_header {ct bd : Byte} {dir : Direction} (h : headerAccepted ct bd dir = false) :
    ¬ (bd = 8 ∧ (ct = 6 ∨ (dir = .decode ∧ ct = 2))) := by
  rintro ⟨rfl, rfl | ⟨rfl, rfl⟩⟩
  · cases dir <;> cases h
  · cases h

/-- The opcode in the record of an error is that of the word, whatever raised it. -/
theorem opc_of_raises {w : Word} {s t : State} (h : execute w s = .next t) (hok : s.status.err = false)
    (herr : t.status.err = true) : t.errInfo.opc = opcodeByte w := by
  obtain ⟨code, d0, d1, -, rfl⟩ | ⟨v, -, hfailed⟩ | ⟨n, -, -, hfailed⟩ := execute_raises hok herr h
  · rfl
  · obtain ⟨-, -, -, rfl⟩ := failed_fields hfailed
    rfl
  · obtain ⟨k, u, -, -, hfailed⟩ := pushw_failed hfailed
    obtain ⟨-, -, -, rfl⟩ := failed_fields hfailed
    rfl

/-- Settles O49: the rows of the table are the cases of `RaiseCause` and the two refused pushes of `execute_raises`. -/
theorem eachCommandRaisesOnlyItsErrors : Obligations.EachCommandRaisesOnlyItsErrors := by
  have hcode : ∀ e : ErrInfo, e.toWord.extractLsb' 0 8 = e.code.toByte := fieldLow_toWord
  refine ⟨fun w s t h hok herr => ?_, fun s => hcode s.errInfo ▸ errCode_toByte_lt s.errInfo.code,
    fun s hinv => hinv.clear_record⟩
  have hopc : t.errInfo.opc = opcodeByte w := opc_of_raises h hok herr
  refine ⟨(opcodeByte_toWord t.errInfo).trans hopc, hopc, ?_⟩
  rw [hcode]
  obtain ⟨code, d0, d1, hcause, rfl⟩ | ⟨v, hd, hfailed⟩ | ⟨n, hd, -, hfailed⟩ := execute_raises hok herr h
  · clear h hopc
    generalize decode w = d at hcause ⊢
    cases hcause with
    | illegal y => exact .inl ⟨rfl, rfl, ⟨y, rfl⟩, rfl, rfl, rfl⟩
    | filter hv => exact .inr (.inl ⟨rfl, rfl, (FilterType.ofByte_eq_none _).1 hv, rfl, .inl ⟨rfl, rfl⟩⟩)
    | header hbad => exact .inr (.inr (.inl ⟨rfl, rfl, rfl, _, rfl, not_accepted_header hbad⟩))
    | pushClosed v hact => exact .inr (.inr (.inr (.inl ⟨rfl, rfl, rfl, rfl, rfl, hact, .inl ⟨v, rfl⟩⟩)))
    | pushwClosed n hact => exact .inr (.inr (.inr (.inl ⟨rfl, rfl, rfl, rfl, rfl, hact, .inr (.inl ⟨n, rfl⟩)⟩)))
    | endClosed hact => exact .inr (.inr (.inr (.inl ⟨rfl, rfl, rfl, rfl, rfl, hact, .inr (.inr rfl)⟩)))
    | width _ hbad =>
      have hwidth : s.arg.toNat = 0 ∨ s.lineMax < s.arg.toNat := hbad.imp_left (word_eq_zero_iff _).1
      exact .inr (.inr (.inr (.inr (.inl ⟨rfl, rfl, rfl, rfl, rfl, hwidth, _, _, _, rfl⟩))))
    | index hbad => exact .inr (.inr (.inr (.inr (.inr (.inl ⟨rfl, rfl, rfl, rfl, rfl, _, rfl, hbad⟩)))))
    | endInsideRow hact hcol =>
      exact .inr (.inr (.inr (.inr (.inr (.inr ⟨rfl, rfl, rfl, rfl, rfl, hact, hcol, rfl⟩)))))
  · obtain ⟨hdir, -, hv, rfl⟩ := failed_fields hfailed
    exact .inr (.inl ⟨rfl, rfl, (FilterType.ofByte_eq_none v).1 hv, rfl, .inr ⟨.inl hd, hdir, rfl⟩⟩)
  · obtain ⟨k, u, hk, htaken, hfailed⟩ := pushw_failed hfailed
    obtain ⟨hdir, -, hv, rfl⟩ := failed_fields hfailed
    rw [pushBytes_taken_status htaken] at hdir
    exact .inr (.inl ⟨rfl, rfl, (FilterType.ofByte_eq_none _).1 hv, rfl, .inr ⟨.inr ⟨n, k, hd, hk, rfl⟩, hdir, rfl⟩⟩)

end Sys2Proof

/-! # The encoder and the decoder are inverse (spec/30_encoding.md R58 to R67) -/

namespace Sys2Proof

open Sys2Proof.Machine

/-- Settles O2, by the round trip of each command. -/
theorem decodeOfEncodeIsTheCommand : Obligations.DecodeOfEncodeIsTheCommand := by
  intro i
  cases i with
  | nop => exact Laws.DecodeEncode.nop
  | clrerr => exact Laws.DecodeEncode.clrerr
  | sreset => exact Laws.DecodeEncode.sreset
  | crcInit => exact Laws.DecodeEncode.crcInit
  | crcByte v => exact Laws.DecodeEncode.crcByte v
  | crcWord n => exact Laws.DecodeEncode.crcWord n
  | crcLoad => exact Laws.DecodeEncode.crcLoad
  | crcChk => exact Laws.DecodeEncode.crcChk
  | crcTab idx => exact Laws.DecodeEncode.crcTab idx
  | slBegin ct bd dir => exact Laws.DecodeEncode.slBegin ct bd dir
  | slPush v => exact Laws.DecodeEncode.slPush v
  | slPushw n => exact Laws.DecodeEncode.slPushw n
  | slReadw n => exact Laws.DecodeEncode.slReadw n
  | slEnd => exact Laws.DecodeEncode.slEnd
  | paeth a b c => exact Laws.DecodeEncode.paeth a b c
  | unfilt ft => exact Laws.DecodeEncode.unfilt ft

/-! ### A word is its fields put together again, in each format -/

theorem getLsbD_encodeW (opc : Byte) (n i : Nat) :
    (encodeW opc n).getLsbD i =
      if i < 2 then (BitVec.ofNat 2 (n - 1)).getLsbD i else if i < 24 then false else opc.getLsbD (i - 24) := by
  refine (BitVec.getLsbD_append (x := opc ++ 0#22) (y := BitVec.ofNat 2 (n - 1)) (i := i)).trans ?_
  rw [BitVec.getLsbD_append]
  simp only [Nat.sub_sub, show (i - 2 < 22 ↔ i < 24) by omega, BitVec.getLsbD_zero]

theorem getLsbD_opcodeByte {w : Word} {i : Nat} (hi : i < 32) (h : ¬ i < 24) :
    (opcodeByte w).getLsbD (i - 24) = w.getLsbD i := by
  rw [opcodeByte, BitVec.getLsbD_extractLsb', decide_eq_true (by omega), Bool.true_and, Nat.add_sub_cancel' (by omega)]

theorem getLsbD_fieldLow (w : Word) {i : Nat} (h : i < 8) : (fieldLow w).getLsbD i = w.getLsbD i := by
  simp [fieldLow, h]

theorem getLsbD_fieldMid (w : Word) {i : Nat} (hlow : ¬ i < 8) (h : i < 16) :
    (fieldMid w).getLsbD (i - 8) = w.getLsbD i := by
  simp [fieldMid, show i - 8 < 8 by omega, show 8 + (i - 8) = i by omega]

theorem getLsbD_fieldHigh (w : Word) {i : Nat} (hlow : ¬ i < 16) (h : i < 24) :
    (fieldHigh w).getLsbD (i - 16) = w.getLsbD i := by
  simp [fieldHigh, show i - 16 < 8 by omega, show 16 + (i - 16) = i by omega]

/-- The bits of a word under a mask of "0" bits that it meets. -/
theorem getLsbD_of_and_eq_zero {w z : Word} (h : w &&& z = 0) {i : Nat} (hz : z.getLsbD i = true) :
    w.getLsbD i = false := by
  have hbit := congrArg (fun x : Word => x.getLsbD i) h
  simpa [hz] using hbit

/-- The count of a word is 1 to 4 (R61). -/
theorem wellFormedCount_fieldCount (w : Word) : wellFormedCount (fieldCount w) = true := by
  have := (w.extractLsb' 0 2).isLt
  exact decide_eq_true ⟨Nat.succ_pos _, by unfold fieldCount; omega⟩

theorem bit_fieldDir (w : Word) : (fieldDir w).bit = w.extractLsb' 16 1 := by
  refine BitVec.eq_of_getLsbD_eq fun i hi => ?_
  obtain rfl : i = 0 := by omega
  rw [fieldDir, BitVec.getLsbD_extractLsb']
  cases w.getLsbD (16 + 0) <;> rfl

section
variable {w : Word} {opc : Byte} (hopc : opcodeByte w = opc) (hzero : w &&& reservedBits opc = 0)
include hopc

/-- Format P has no "0" bit (R60). -/
theorem encodeP_fields : encodeP opc (fieldHigh w) (fieldMid w) (fieldLow w) = w := by
  subst hopc
  refine word_ext fun i hi => ?_
  rw [getLsbD_encodeP]
  split_ifs with hlow hmid hhigh
  · exact getLsbD_fieldLow w hlow
  · exact getLsbD_fieldMid w hlow hmid
  · exact getLsbD_fieldHigh w hmid hhigh
  · exact getLsbD_opcodeByte hi hhigh

include hzero

theorem encodeN_fields (hformat : reservedBits opc = 0x00FFFFFF) : encodeN opc = w := by
  subst hopc
  rw [hformat] at hzero
  refine word_ext fun i hi => ?_
  rw [getLsbD_encodeN]
  split_ifs with hlow
  · exact (getLsbD_of_and_eq_zero hzero (by interval_cases i <;> rfl)).symm
  · exact getLsbD_opcodeByte hi hlow

theorem encodeI8_fields (hformat : reservedBits opc = 0x00FFFF00) : encodeI8 opc (fieldLow w) = w := by
  subst hopc
  rw [hformat] at hzero
  refine word_ext fun i hi => ?_
  rw [getLsbD_encodeI8]
  split_ifs with hlow hmid
  · exact getLsbD_fieldLow w hlow
  · exact (getLsbD_of_and_eq_zero hzero (by interval_cases i <;> rfl)).symm
  · exact getLsbD_opcodeByte hi hmid

theorem encodeW_fields (hformat : reservedBits opc = 0x00FFFFFC) : encodeW opc (fieldCount w) = w := by
  subst hopc
  rw [hformat] at hzero
  refine word_ext fun i hi => ?_
  rw [getLsbD_encodeW]
  split_ifs with hlow hmid
  · rw [fieldCount, Nat.add_sub_cancel, BitVec.ofNat_toNat, BitVec.setWidth_eq, BitVec.getLsbD_extractLsb',
      decide_eq_true hlow, Bool.true_and, Nat.zero_add]
  · exact (getLsbD_of_and_eq_zero hzero (by interval_cases i <;> rfl)).symm
  · exact getLsbD_opcodeByte hi hmid

theorem encodeB_fields (hformat : reservedBits opc = 0x00FE0000) :
    encodeB opc (fieldDir w) (fieldMid w) (fieldLow w) = w := by
  subst hopc
  rw [hformat] at hzero
  refine word_ext fun i hi => ?_
  rw [getLsbD_encodeB]
  split_ifs with hlow hmid hbit hhigh
  · exact getLsbD_fieldLow w hlow
  · exact getLsbD_fieldMid w hlow hmid
  · obtain rfl : i = 16 := by omega
    simp [bit_fieldDir]
  · exact (getLsbD_of_and_eq_zero hzero (by interval_cases i <;> rfl)).symm
  · exact getLsbD_opcodeByte hi hhigh

end

theorem wellFormed_build {r : OpRow} (hr : r ∈ opcodeMap) (w : Word) : (r.build w).wellFormed = true := by
  revert r
  simp [opcodeMap, Instr.wellFormed, wellFormedCount_fieldCount]

/-- A selected word is the encoding of its row's command. -/
theorem encode_build {r : OpRow} {w : Word} (hr : r ∈ opcodeMap) (hs : r.selects w = true) : encode (r.build w) = w := by
  have hopc : opcodeByte w = (r.build w).opcode := (opcodeByte_of_selects hr hs).trans (opcode_build hr w).symm
  have hzero : w &&& reservedBits (r.build w).opcode = 0 := by
    rw [← hopc, ← selects_iff_reservedBits hr (opcodeByte_of_selects hr hs)]
    exact hs
  simp only [opcodeMap, List.mem_cons, List.not_mem_nil, or_false] at hr
  rcases hr with rfl | rfl | rfl | rfl | rfl | rfl | rfl | rfl | rfl | rfl | rfl | rfl | rfl | rfl | rfl | rfl
  · exact encodeN_fields hopc hzero rfl
  · exact encodeN_fields hopc hzero rfl
  · exact encodeN_fields hopc hzero rfl
  · exact encodeN_fields hopc hzero rfl
  · exact encodeI8_fields hopc hzero rfl
  · exact encodeW_fields hopc hzero rfl
  · exact encodeN_fields hopc hzero rfl
  · exact encodeN_fields hopc hzero rfl
  · exact encodeI8_fields hopc hzero rfl
  · exact encodeB_fields hopc hzero rfl
  · exact encodeI8_fields hopc hzero rfl
  · exact encodeW_fields hopc hzero rfl
  · exact encodeW_fields hopc hzero rfl
  · exact encodeN_fields hopc hzero rfl
  · exact encodeP_fields hopc
  · exact encodeI8_fields hopc hzero rfl

/-- Settles O3, by the row that selects the word. -/
theorem encodeOfDecodeIsTheWord : Obligations.EncodeOfDecodeIsTheWord := by
  intro w i h
  obtain ⟨r, hr, hs, rfl⟩ := decode_command h
  exact ⟨wellFormed_build hr w, encode_build hr hs⟩

/-- Settles O1, by evaluating the decoder on the ten words. -/
theorem specWordsDecodeToTheirCommands : Obligations.SpecWordsDecodeToTheirCommands := by
  unfold Obligations.SpecWordsDecodeToTheirCommands
  decide

end Sys2Proof

/-! # The table, the byte step and the checksum of the bytes fed (spec/41_crc.md R82 to R91; spec/30_encoding.md R69) -/

namespace Sys2Proof

open Sys2Proof.Machine

/-! ### The table (R82) -/

theorem crcBitStep_xor (a b : Word) : crcBitStep (a ^^^ b) = crcBitStep a ^^^ crcBitStep b := by
  simp only [crcBitStep, BitVec.getLsbD_xor, BitVec.ushiftRight_xor_distrib]
  cases a.getLsbD 0 <;> cases b.getLsbD 0
  · rfl
  · show crcPolynomial ^^^ (a >>> 1 ^^^ b >>> 1) = a >>> 1 ^^^ (crcPolynomial ^^^ b >>> 1)
    ac_rfl
  · exact (BitVec.xor_assoc _ _ _).symm
  · calc a >>> 1 ^^^ b >>> 1
        = (crcPolynomial ^^^ crcPolynomial) ^^^ (a >>> 1 ^^^ b >>> 1) := by rw [BitVec.xor_self, BitVec.zero_xor]
      _ = (crcPolynomial ^^^ a >>> 1) ^^^ (crcPolynomial ^^^ b >>> 1) := by ac_rfl

theorem crcBitSteps_xor (k : Nat) (a b : Word) : crcBitSteps k (a ^^^ b) = crcBitSteps k a ^^^ crcBitSteps k b := by
  induction k generalizing a b with
  | zero => rfl
  | succ k ih => rw [crcBitSteps, crcBitStep_xor, ih, crcBitSteps, crcBitSteps]

/-- The top bit after a step is the bit that was shifted out: the polynomial has its top bit set. -/
theorem getLsbD_crcBitStep_top (c : Word) : (crcBitStep c).getLsbD 31 = c.getLsbD 0 := by
  have htop : (c >>> 1).getLsbD 31 = false := by rw [BitVec.getLsbD_ushiftRight]; exact BitVec.getLsbD_of_ge _ _ (by decide)
  unfold crcBitStep
  split
  case isTrue h =>
    rw [BitVec.getLsbD_xor, htop, h]
    rfl
  case isFalse h => rw [htop, Bool.eq_false_iff.2 h]

theorem crcBitStep_injective : Function.Injective crcBitStep := by
  intro a b h
  have h0 : a.getLsbD 0 = b.getLsbD 0 := by rw [← getLsbD_crcBitStep_top, h, getLsbD_crcBitStep_top]
  have hshift : a >>> 1 = b >>> 1 := by
    unfold crcBitStep at h
    rw [h0] at h
    split at h
    · exact (BitVec.xor_right_inj _).1 h
    · exact h
  refine word_ext fun i hi => ?_
  cases i with
  | zero => exact h0
  | succ i =>
    have hbit := congrArg (fun x : Word => x.getLsbD i) hshift
    simpa [Nat.add_comm 1 i] using hbit

theorem crcBitSteps_injective (k : Nat) : Function.Injective (crcBitSteps k) := by
  induction k with
  | zero => exact Function.injective_id
  | succ k ih => exact ih.comp crcBitStep_injective

theorem setWidth_injective : Function.Injective (fun n : Byte => n.setWidth 32) := by
  intro m n h
  have := congrArg (fun x : Word => x.setWidth 8) h
  simpa using this

/-- Settles O24: each bit step is linear and, by its top bit, injective. -/
theorem crcTableIsLinearInItsIndex : Obligations.CrcTableIsLinearInItsIndex := by
  refine ⟨fun n => rfl, fun m n => ?_, by decide, (crcBitSteps_injective 8).comp setWidth_injective⟩
  rw [crcTable, BitVec.setWidth_xor, crcBitSteps_xor, crcTable, crcTable]

/-! ### `CRC.BYTE`, `CRC.WORD` and `CRC.TAB` (R86, R87, R90) -/

theorem commandWords_crcByte : CommandWords 0x11 0x00FFFF00 (fun w => .crcByte (fieldLow w)) :=
  commandWords_of_row (r := ⟨"CRC.BYTE", 0x11000000, 0xFFFFFF00, fun w => .crcByte (fieldLow w)⟩)
    (by simp [opcodeMap]) rfl rfl rfl (by simp)

theorem commandWords_crcWord : CommandWords 0x12 0x00FFFFFC (fun w => .crcWord (fieldCount w)) :=
  commandWords_of_row (r := ⟨"CRC.WORD", 0x12000000, 0xFFFFFFFC, fun w => .crcWord (fieldCount w)⟩)
    (by simp [opcodeMap]) rfl rfl rfl (by simp)

theorem commandWords_crcTab : CommandWords 0x15 0x00FFFF00 (fun w => .crcTab (fieldLow w)) :=
  commandWords_of_row (r := ⟨"CRC.TAB", 0x15000000, 0xFFFFFF00, fun w => .crcTab (fieldLow w)⟩)
    (by simp [opcodeMap]) rfl rfl rfl (by simp)

/-- Settles O20, by the rule of the command. -/
theorem crcByteIsOneTableStep : Obligations.CrcByteIsOneTableStep :=
  ⟨commandWords_crcByte, fun _ v hok => exec_crcByte_of_ok hok v⟩

/-- Settles O23, by the rule of the command. -/
theorem crcTabReadsTheTable : Obligations.CrcTabReadsTheTable :=
  ⟨commandWords_crcTab, fun _ n hok => exec_crcTab_of_ok hok n⟩

/-- `CRC.BYTE` commands fold their bytes into the running register. -/
theorem execAll_crcByte {s : State} (hok : s.status.err = false) (vs : List Byte) :
    execAll (vs.map .crcByte) s = .next (s.setCrcState (crcFold s.crcState vs)) := by
  induction vs generalizing s with
  | nil => rfl
  | cons v vs ih =>
    rw [List.map_cons, execAll, exec_crcByte_of_ok hok]
    exact ih hok

/-- Settles O21: both sides fold the bytes of `ARG`. -/
theorem crcWordIsItsBytesInOrder : Obligations.CrcWordIsItsBytesInOrder := by
  refine ⟨commandWords_crcWord, fun s n hok _ _ => ⟨?_, ?_⟩⟩
  · have hbytes := execAll_crcByte hok (bytesOf n s.arg)
    rw [bytesOf, List.map_map] at hbytes
    exact (exec_crcWord_of_ok hok n).trans hbytes.symm
  · rw [exec_crcWord_of_ok hok, crcFold, bytesOf, List.foldl_map]
    rfl

/-! ### Assembler lines at the port (R68) -/

theorem deliver_arg_line {s : State} (hrun : s.inReset = false) (v : Word) :
    deliver (AsmLine.arg v).event s = .next ((s.setArg v).respond (.writeDone .okay)) := by
  rw [AsmLine.event, deliver_write hrun, busWrite_arg]
  rfl

/-- A command line executes its command. -/
theorem deliver_cmd_line {s t : State} (hrun : s.inReset = false) {i : Instr} (hi : i.wellFormed = true)
    (h : exec i s = .next t) : deliver (AsmLine.cmd i).event s = .next (t.respond (.writeDone .okay)) := by
  rw [AsmLine.event, deliver_write hrun, busWrite_cmd, execute, decodeOfEncodeIsTheCommand i hi]
  simp only [h]
  rfl

/-- An `ARG` line and a command line: the command finds `ARG` set and the write answered. -/
theorem deliverAll_arg_cmd {s t : State} (hrun : s.inReset = false) {v : Word} {i : Instr} (hi : i.wellFormed = true)
    (h : exec i ((s.setArg v).respond (.writeDone .okay)) = .next t) :
    deliverAll (asmEvents [.arg v, .cmd i]) s = .next (t.respond (.writeDone .okay)) := by
  have hcmd := deliver_cmd_line (s := (s.setArg v).respond (.writeDone .okay)) hrun hi h
  rw [asmEvents, List.map_cons, List.map_singleton, deliverAll, deliver_arg_line hrun]
  simp only [deliverAll, hcmd]

theorem wellFormedCount_of_range {n : Nat} (h : 1 ≤ n ∧ n ≤ 4) : wellFormedCount n = true := decide_eq_true h

/-- Events delivered up to `t` and then the rest from there. -/
theorem deliverAll_append {es es' : List BusEvent} {s t : State} (h : deliverAll es s = .next t) :
    deliverAll (es ++ es') s = deliverAll es' t := by
  induction es generalizing s with
  | nil =>
    cases h
    rfl
  | cons e es ih =>
    rw [List.cons_append, deliverAll]
    rw [deliverAll] at h
    cases he : deliver e s with
    | next u =>
      rw [he] at h
      exact ih h
    | fault f => rw [he] at h; cases h
    | refused r => rw [he] at h; cases h

/-! ### Feeding bytes (R84) -/

/-- `t` is what `s` becomes when `bytes` are fed, as far as the CRC registers, `RESULT` and `STATUS` show. -/
structure CrcFed (bytes : List Byte) (s t : State) : Prop where
  inReset : t.inReset = s.inReset
  status : t.status = s.status
  result : t.result = s.result
  crcState : t.crcState = crcFold s.crcState bytes

theorem CrcFed.refl (s : State) : CrcFed [] s s := ⟨rfl, rfl, rfl, rfl⟩

theorem CrcFed.append {bs cs : List Byte} {s t u : State} (h : CrcFed bs s t) (h' : CrcFed cs t u) :
    CrcFed (bs ++ cs) s u :=
  ⟨h'.inReset.trans h.inReset, h'.status.trans h.status, h'.result.trans h.result, by
    rw [h'.crcState, h.crcState, crcFold, crcFold, crcFold, List.foldl_append]⟩

theorem bytesOf_packBytes {bs : List Byte} (h : bs.length ≤ 4) : bytesOf bs.length (packBytes bs) = bs :=
  List.ext_getElem (length_bytesOf _ _) fun k _ hk => by
    simp only [bytesOf, List.getElem_map, List.getElem_range, byteOf_packBytes bs k hk h]

/-- The lines of one feed. -/
theorem deliverAll_feed {s : State} (hrun : s.inReset = false) (hok : s.status.err = false) {f : CrcFeed} (hf : f.ok) :
    ∃ t, deliverAll (asmEvents f.lines) s = .next t ∧ CrcFed f.bytes s t := by
  cases f with
  | byte v =>
    refine ⟨(s.setCrcState (crcUpdate s.crcState v)).respond (.writeDone .okay), ?_, ⟨rfl, rfl, rfl, rfl⟩⟩
    rw [CrcFeed.lines, asmEvents, List.map_singleton, deliverAll,
      deliver_cmd_line hrun rfl (exec_crcByte_of_ok hok v)]
    rfl
  | word bs =>
    have hbytes : bytesOf bs.length (packBytes bs) = bs := bytesOf_packBytes hf.2
    have hexec := exec_crcWord_of_ok (s := (s.setArg (packBytes bs)).respond (.writeDone .okay)) hok bs.length
    exact ⟨_, deliverAll_arg_cmd hrun (wellFormedCount_of_range hf) hexec,
      ⟨rfl, rfl, rfl, congrArg (crcFold s.crcState) hbytes⟩⟩

/-- The lines of any list of feeds. -/
theorem deliverAll_feeds {s : State} (hrun : s.inReset = false) (hok : s.status.err = false) {feeds : List CrcFeed}
    (hfeeds : ∀ f ∈ feeds, f.ok) :
    ∃ t, deliverAll (asmEvents (feeds.flatMap CrcFeed.lines)) s = .next t ∧
      CrcFed (feeds.flatMap CrcFeed.bytes) s t := by
  induction feeds generalizing s with
  | nil => exact ⟨s, rfl, .refl s⟩
  | cons f feeds ih =>
    obtain ⟨hf, hrest⟩ := List.forall_mem_cons.1 hfeeds
    obtain ⟨t, ht, hfed⟩ := deliverAll_feed hrun hok hf
    obtain ⟨u, hu, hfed'⟩ := ih (hfed.inReset.trans hrun) (by rw [hfed.status, hok]) hrest
    refine ⟨u, ?_, hfed.append hfed'⟩
    rw [List.flatMap_cons, asmEvents, List.map_append]
    exact (deliverAll_append ht).trans hu

/-- Settles O25, by `deliverAll_feeds` from the state `CRC.INIT` leaves. -/
theorem checksumOfTheBytesFed : Obligations.ChecksumOfTheBytesFed := by
  refine ⟨fun s feeds hrun hok hfeeds => ?_, by decide⟩
  obtain ⟨t, ht, hfed⟩ := deliverAll_feeds (s := (s.setCrcState crcInitial).respond (.writeDone .okay)) hrun hok hfeeds
  refine ⟨t, ?_, hfed.crcState, ?_, hfed.status⟩
  · rw [asmEvents, List.map_cons, deliverAll, deliver_cmd_line hrun rfl (exec_crcInit_of_ok hok)]
    exact ht
  · rw [show (0x24 : BitVec 8) = Reg.crcResult.offset from rfl, busRead_offset, readReg, State.crcResult, hfed.crcState]
    rfl

/-! ### `crc.bytes` (R69) -/

theorem flatten_byteGroups : ∀ bs : List Byte, (byteGroups bs).flatten = bs
  | [] | [_] | [_, _] | [_, _, _] => rfl
  | b0 :: b1 :: b2 :: b3 :: bs => by
    rw [byteGroups, List.flatten_cons, flatten_byteGroups bs]
    rfl

theorem length_of_mem_byteGroups : ∀ {bs g : List Byte}, g ∈ byteGroups bs → 1 ≤ g.length ∧ g.length ≤ 4
  | [], _, h => absurd h List.not_mem_nil
  | [_], _, h => by rw [List.mem_singleton.1 h]; exact ⟨by simp, by simp⟩
  | [_, _], _, h => by rw [List.mem_singleton.1 h]; exact ⟨by simp, by simp⟩
  | [_, _, _], _, h => by rw [List.mem_singleton.1 h]; exact ⟨by simp, by simp⟩
  | b0 :: b1 :: b2 :: b3 :: bs, g, h => by
    rw [byteGroups, List.mem_cons] at h
    rcases h with rfl | h
    · exact ⟨by simp, by simp⟩
    · exact length_of_mem_byteGroups h

/-- The groups of `crc.bytes` are feeds. -/
theorem expand_crcBytes (bs : List Byte) :
    (Pseudo.crcBytes bs).expand = ((byteGroups bs).map CrcFeed.word).flatMap CrcFeed.lines := by
  rw [Pseudo.expand, List.flatMap_map]
  rfl

theorem bytes_word_feeds (gs : List (List Byte)) : (gs.map CrcFeed.word).flatMap CrcFeed.bytes = gs.flatten := by
  rw [List.flatMap_map]
  exact List.flatMap_id

/-- Settles O26: the groups are feeds by `CRC.WORD`, and join to the list. -/
theorem crcBytesFeedsEveryByte : Obligations.CrcBytesFeedsEveryByte := by
  refine ⟨fun s bs hrun hok => ?_, fun bs => ⟨flatten_byteGroups bs, fun g => length_of_mem_byteGroups⟩⟩
  have hfeeds : ∀ f ∈ (byteGroups bs).map CrcFeed.word, f.ok := by
    simp only [List.forall_mem_map]
    exact fun g hg => length_of_mem_byteGroups hg
  obtain ⟨t, ht, hfed⟩ := deliverAll_feeds hrun hok hfeeds
  have hstate := hfed.crcState
  rw [bytes_word_feeds, flatten_byteGroups] at hstate
  exact ⟨t, by rw [expand_crcBytes, ht], hstate, hfed.result, hfed.status⟩

end Sys2Proof

/-! # The predictors and the reconstruction of a byte (spec/42_predictor.md R93 to R95) -/

namespace Sys2Proof

open Sys2Proof.Machine

/-! ### The Paeth predictor on exact integers (R94) -/

theorem cast_paethDistance (a b c x : Byte) :
    ((paethDistance a b c x : Nat) : Int) = |(a.toNat : Int) + b.toNat - c.toNat - x.toNat| :=
  Int.natCast_natAbs _

/-- `a` is at least as near as `b` and `c`. -/
def PaethTakesA (a b c : Byte) : Prop :=
  paethDistance a b c a ≤ paethDistance a b c b ∧ paethDistance a b c a ≤ paethDistance a b c c

section
variable {a b c : Byte}

theorem paethSel_eq_a (ha : PaethTakesA a b c) : paethSel a b c = .a := if_pos ha

theorem paethSel_eq_b (ha : ¬ PaethTakesA a b c) (hc : paethDistance a b c b ≤ paethDistance a b c c) :
    paethSel a b c = .b := (if_neg ha).trans (if_pos hc)

theorem paethSel_eq_c (ha : ¬ PaethTakesA a b c) (hb : ¬ paethDistance a b c b ≤ paethDistance a b c c) :
    paethSel a b c = .c := (if_neg ha).trans (if_neg hb)

end

/-- A distance of the estimate from a neighbour, with the neighbour cancelled. -/
theorem paeth_cancel (a b c : Int) :
    |a + b - c - a| = |b - c| ∧ |a + b - c - b| = |a - c| ∧ |a + b - c - c| = |a + b - 2 * c| :=
  ⟨congrArg _ (by ring), congrArg _ (by ring), congrArg _ (by ring)⟩

/-- Settles O29: the selection compares the distances as integers; the ranges from the cancelled forms. -/
theorem paethTakesTheNearestNeighbour : Obligations.PaethTakesTheNearestNeighbour := by
  intro a b c p pa pb pc
  have hle (x y : Byte) :
      |p - (x.toNat : Int)| ≤ |p - (y.toNat : Int)| ↔ paethDistance a b c x ≤ paethDistance a b c y := by
    rw [← cast_paethDistance, ← cast_paethDistance, Int.ofNat_le]
  obtain ⟨ha, hb, hc⟩ := paeth_cancel (a.toNat : Int) b.toNat c.toNat
  refine ⟨fun h1 h2 => ?_, fun h1 h2 => ?_, fun h1 h2 => ?_, ha, hb, hc, ?_⟩
  · have hsel : paethSel a b c = .a := paethSel_eq_a ⟨(hle a b).1 h1, (hle a c).1 h2⟩
    exact ⟨by rw [paethValue, hsel], by rw [hsel]; rfl⟩
  · have hsel : paethSel a b c = .b := paethSel_eq_b (by rwa [PaethTakesA, ← hle, ← hle]) ((hle b c).1 h2)
    exact ⟨by rw [paethValue, hsel], by rw [hsel]; rfl⟩
  · have hsel : paethSel a b c = .c := paethSel_eq_c (by rwa [PaethTakesA, ← hle, ← hle]) (by rwa [← hle])
    exact ⟨by rw [paethValue, hsel], by rw [hsel]; rfl⟩
  · have hlt : ∀ x : Byte, x.toNat < 256 := fun x => x.isLt
    have := hlt a
    have := hlt b
    have := hlt c
    refine ⟨by omega, by omega, ?_, ?_, ?_⟩ <;> rw [abs_le] <;> omega

/-! ### Reconstruction (R93, R95) -/

theorem toNat_recon (ft : FilterType) (x a b c : Byte) :
    (recon ft x a b c).toNat = (x.toNat + predictor ft a b c) % 256 := by
  rw [recon, BitVec.toNat_ofNat, Nat.mod_mod]

/-- Every predictor is a byte (R93). -/
theorem predictor_le (ft : FilterType) (a b c : Byte) : predictor ft a b c ≤ 255 := by
  have hle : ∀ x : Byte, x.toNat ≤ 255 := fun x => Nat.le_of_lt_succ x.isLt
  cases ft with
  | none => exact Nat.zero_le _
  | sub => exact hle a
  | up => exact hle b
  | average =>
    have := hle a
    have := hle b
    show (a.toNat + b.toNat) / 2 ≤ 255
    omega
  | paeth => exact hle _

/-- Filter type 0 is the identity. -/
theorem recon_none (x a b c : Byte) : recon .none x a b c = x :=
  BitVec.eq_of_toNat_eq ((toNat_recon _ _ _ _ _).trans (Nat.mod_eq_of_lt x.isLt))

/-- Settles O30, by `toNat_recon`. -/
theorem reconstructionAddsThePredictor : Obligations.ReconstructionAddsThePredictor := fun x a b c =>
  ⟨congrArg BitVec.toNat (recon_none x a b c), toNat_recon _ _ _ _ _, toNat_recon _ _ _ _ _, toNat_recon _ _ _ _ _,
    toNat_recon _ _ _ _ _, fun ft => predictor_le ft a b c⟩

/-- The forward filter, then reconstruction. -/
theorem recon_forward (ft : FilterType) (r a b c : Byte) :
    recon ft (BitVec.ofInt 8 (((r.toNat : Int) - predictor ft a b c) % 256)) a b c = r := by
  refine BitVec.eq_of_toNat_eq ?_
  have hr : r.toNat < 256 := r.isLt
  rw [toNat_recon, BitVec.toNat_ofInt]
  omega

/-- Settles O31: reconstruction is onto by the forward filter, so a bijection of the finite set of bytes. -/
theorem reconstructionIsABijection : Obligations.ReconstructionIsABijection := fun ft a b c =>
  ⟨Function.Surjective.bijective_of_finite fun r => ⟨_, recon_forward ft r a b c⟩, fun r => recon_forward ft r a b c,
    fun x => recon_none x a b c⟩

end Sys2Proof

/-! # Steps, reads, reset and the window at the port (spec/10_state.md R21, R22, R37; spec/20_memory.md R41, R49; R140) -/

namespace Sys2Proof

open Sys2Proof.Machine

/-! ### One step (R53) -/

/-- Settles O7: a word written to `CMD` is executed and answered. -/
theorem stepRunsTheDecodedCommand : Obligations.StepRunsTheDecodedCommand := by
  refine ⟨fun s rest w i hrun hinbox hdecode => ?_, fun s => step_idle⟩
  rw [step_event hinbox, deliver_write (s := s.setInbox rest) hrun, busWriteResp_aligned (by decide),
    show (0x08 : BitVec 8) = Reg.cmd.offset from rfl, busWrite_cmd, execute, hdecode]
  change answerWrite .okay (exec i { s with inbox := rest }) = _
  cases exec i { s with inbox := rest } <;> rfl

theorem step_read {s : State} {width : Nat} {off : BitVec 8} {rest : List BusEvent} (hrun : s.inReset = false)
    (hinbox : s.inbox = .read width off :: rest) :
    step s = .next ((s.setInbox rest).respond (.readDone (busRead width off s).1 (busRead width off s).2)) := by
  rw [step_event hinbox, deliver_read (s := s.setInbox rest) hrun, busRead_setInbox]

/-- Settles O11: a read does not see the port or the answers given, which are all that an earlier read changes. -/
theorem readsHaveNoSideEffect : Obligations.ReadsHaveNoSideEffect :=
  fun _ _ _ _ _ _ hrun hinbox => ⟨_, _, step_read hrun hinbox, step_read hrun rfl, rfl, rfl⟩

/-! ### `STATUS` and `ERRINFO` as a host reads them (R21, R22) -/

theorem code_toByte_eq_zero_iff (c : ErrCode) : c.toByte = 0 ↔ c = .none :=
  ⟨code_eq_none_of_toByte, fun h => by rw [h]; rfl⟩

/-- The fields of ten parts laid side by side as `STATUS` lays them. -/
theorem fields_of_append (z f : BitVec 8) (y : BitVec 5) (p x : BitVec 3) (r d a m e : BitVec 1) :
    let w := z ++ f ++ y ++ p ++ x ++ r ++ d ++ a ++ m ++ e
    (w.extractLsb' 0 1 = e ∧ w.extractLsb' 1 1 = m ∧ w.extractLsb' 2 1 = a ∧ w.extractLsb' 3 1 = d ∧
        w.extractLsb' 4 1 = r) ∧
      w.extractLsb' 5 3 = x ∧ w.extractLsb' 8 3 = p ∧ w.extractLsb' 11 5 = y ∧ w.extractLsb' 16 8 = f ∧
      w.extractLsb' 24 8 = z := by
  simp (disch := decide) only [BitVec.extractLsb'_append_eq_of_le, BitVec.extractLsb'_append_eq_right, Nat.reduceSub,
    BitVec.extractLsb'_eq_self, and_self]

theorem getLsbD_of_extractLsb' {w : Word} {i : Nat} {b : Bool} (h : w.extractLsb' i 1 = BitVec.ofBool b) :
    w.getLsbD i = b := by
  have hbit := congrArg (fun x : BitVec 1 => x.getLsbD 0) h
  simpa using hbit

section
variable (st : Status)

theorem flags_toWord :
    st.toWord.getLsbD 0 = st.err ∧ st.toWord.getLsbD 1 = st.crcMatch ∧ st.toWord.getLsbD 2 = st.slActive ∧
      st.toWord.getLsbD 3 = dirFlag st.dir ∧ st.toWord.getLsbD 4 = st.hasRow := by
  obtain ⟨he, hm, ha, hd, hr⟩ := (fields_of_append 0 st.ftype.toByte 0 st.bpp.toBits 0 (BitVec.ofBool st.hasRow)
    (BitVec.ofBool (dirFlag st.dir)) (BitVec.ofBool st.slActive) (BitVec.ofBool st.crcMatch) (BitVec.ofBool st.err)).1
  exact ⟨getLsbD_of_extractLsb' he, getLsbD_of_extractLsb' hm, getLsbD_of_extractLsb' ha, getLsbD_of_extractLsb' hd,
    getLsbD_of_extractLsb' hr⟩

/-- The fields above the flags, the reserved bits among them. -/
theorem fields_toWord :
    st.toWord.extractLsb' 5 3 = 0 ∧ st.toWord.extractLsb' 8 3 = st.bpp.toBits ∧ st.toWord.extractLsb' 11 5 = 0 ∧
      st.toWord.extractLsb' 16 8 = st.ftype.toByte ∧ st.toWord.extractLsb' 24 8 = 0 :=
  (fields_of_append 0 st.ftype.toByte 0 st.bpp.toBits 0 (BitVec.ofBool st.hasRow)
    (BitVec.ofBool (dirFlag st.dir)) (BitVec.ofBool st.slActive) (BitVec.ofBool st.crcMatch) (BitVec.ofBool st.err)).2

end

theorem toNat_toBits (p : Bpp) : p.toBits.toNat = p.toNat := by cases p <;> rfl

theorem dirFlag_eq (d : Direction) : dirFlag d = decide (d = .encode) := by cases d <;> rfl

/-- Settles O12: the fields by `fields_of_append`, `ERRINFO` as a word of format P. -/
theorem statusAndErrinfoFieldsStandWhereTheMapSays : Obligations.StatusAndErrinfoFieldsStandWhereTheMapSays := by
  refine ⟨fun st => ?_, fun e => ?_, fun st => ?_, fun e => ?_⟩
  · obtain ⟨herr, hmatch, hactive, hdir, hrow⟩ := flags_toWord st
    obtain ⟨hlow, hbpp, hmid, hftype, hhigh⟩ := fields_toWord st
    exact ⟨herr, hmatch, hactive, hdir.trans (dirFlag_eq _), hrow, hlow, by rw [hbpp, toNat_toBits], hmid, hftype, hhigh⟩
  · exact ⟨fieldLow_toWord e, fieldMid_encodeP e.opc e.d1 e.d0 e.code.toByte,
      fieldHigh_encodeP e.opc e.d1 e.d0 e.code.toByte, opcodeByte_toWord e,
      Nat.le_of_lt_succ (errCode_toByte_lt e.code), code_toByte_eq_zero_iff e.code⟩
  · obtain ⟨-, -, -, hftype, -⟩ := fields_toWord st
    rw [hftype]
    cases st.ftype <;> rfl
  · rw [show e.toWord.extractLsb' 0 8 = e.code.toByte from fieldLow_toWord e]
    cases e.code <;> rfl

/-! ### Reset (R37, R73, R140) -/

/-- `LINE_MAX` is 1 to `2^28` (R6). -/
theorem lineMax_range : 1 ≤ Config.lineMax ∧ Config.lineMax ≤ 2 ^ 28 :=
  ⟨Nat.succ_pos _, Nat.mod_lt _ (by decide)⟩

/-- Settles O13, by the definition of the state after reset. -/
theorem resetStateHoldsTheResetValues : Obligations.ResetStateHoldsTheResetValues :=
  ⟨rfl, rfl, by decide, by decide, rfl, rfl, rfl, rfl, rfl, busRead_offset .crcResult _,
    busRead_offset .id _, rfl, rfl, rfl, rfl, lineMax_range⟩

section
variable {s : State} (hreset : s.inReset = true)
include hreset

theorem deliver_read_of_reset (width : Nat) (off : BitVec 8) : deliver (.read width off) s =
    .next (s.respond (.readDone (Config.inResetData s.responses.length) (Config.inResetResp s.responses.length))) := by
  rw [deliver, if_pos hreset]

theorem deliver_write_of_reset (width : Nat) (off : BitVec 8) (data : Word) : deliver (.write width off data) s =
    .next (s.respond (.writeDone (Config.inResetResp s.responses.length))) := by
  rw [deliver, if_pos hreset]

theorem deliver_release : deliver (.resetLine false) s = .next ((resetBlock s).setInReset false) := by
  rw [deliver, driveReset, if_neg Bool.false_ne_true, if_pos hreset]

end

theorem deliver_release_idle {s : State} (hrun : s.inReset = false) : deliver (.resetLine false) s = .next s := by
  rw [deliver, driveReset, if_neg Bool.false_ne_true, if_neg (by simp [hrun])]

/-- Settles O14, by the three events: an access, the release and the assertion. -/
theorem resetInputAndSresetGiveResetValues : Obligations.ResetInputAndSresetGiveResetValues := by
  refine ⟨fun s e hreset he => ?_, fun s hreset => ?_, fun s => rfl, fun s => deliver_release_idle⟩
  · cases e with
    | read width off => exact ⟨_, deliver_read_of_reset hreset width off⟩
    | write width off data => exact ⟨_, deliver_write_of_reset hreset width off data⟩
    | resetLine b => exact absurd rfl (he b)
  · exact ⟨_, deliver_release hreset, rfl, rfl, rfl, rfl, rfl, rfl, rfl, rfl, rfl, rfl, rfl, rfl, rfl, rfl, rfl, rfl⟩

/-- Settles O18: only `CAP` depends on what a reset keeps. -/
theorem sresetGivesEveryRegisterItsResetValue : Obligations.SresetGivesEveryRegisterItsResetValue := by
  refine fun s => ⟨resetBlock s, rfl, fun r hr => ?_, rfl, rfl, rfl, rfl, rfl, rfl, rfl⟩
  cases r with
  | cap => exact absurd rfl hr
  | _ => rfl

/-! ### The window (R41) -/

theorem windowOffset_eq_some_iff {base addr : Nat} {off : BitVec 8} :
    windowOffset base addr = some off ↔ addr = base + off.toNat := by
  have hoff : off.toNat < 256 := off.isLt
  unfold windowOffset
  split
  case isTrue h =>
    rw [Option.some_inj, ← BitVec.toNat_inj, BitVec.toNat_ofNat]
    omega
  case isFalse h =>
    simp only [reduceCtorEq, false_iff]
    omega

theorem windowOffset_eq_none_iff {base addr : Nat} :
    windowOffset base addr = none ↔ (addr < base ∨ base + 256 ≤ addr) := by
  unfold windowOffset
  split <;> simp only [reduceCtorEq, true_iff, false_iff] <;> omega

/-- Settles O15: a host address in the window is `BASE` and an offset, and `BASE` is a multiple of 4. -/
theorem windowLiesAtBase : Obligations.WindowLiesAtBase := by
  have hbase : Config.base % 4 = 0 := Nat.mul_mod_right 4 _
  refine ⟨hbase, fun off => windowOffset_eq_some_iff.2 rfl, fun addr off h => ?_, fun addr => windowOffset_eq_none_iff⟩
  have haddr := windowOffset_eq_some_iff.1 h
  exact ⟨haddr, by omega⟩

end Sys2Proof

/-! # Opening a session, pushing a byte, and the output row (spec/43_scanline.md R105 to R118) -/

namespace Sys2Proof

open Sys2Proof.Machine

/-! ### `SL.BEGIN` (R105) -/

theorem commandWords_slBegin : CommandWords 0x20 0x00FE0000 (fun w => .slBegin (fieldLow w) (fieldMid w) (fieldDir w)) :=
  commandWords_of_row
    (r := ⟨"SL.BEGIN", 0x20000000, 0xFFFE0000, fun w => .slBegin (fieldLow w) (fieldMid w) (fieldDir w)⟩)
    (by simp [opcodeMap]) rfl rfl rfl (by simp)

theorem headerAccepted_iff (ct bd : Byte) (dir : Direction) :
    headerAccepted ct bd dir = true ↔
      bd = 8 ∧ ((dir = .decode ∧ (ct = 2 ∨ ct = 6)) ∨ (dir = .encode ∧ ct = 6)) := by
  cases dir <;> simp [headerAccepted, acceptedBitDepth, colourRgb, colourRgba]

theorem headerBpp_eq (ct : Byte) (dir : Direction) :
    headerBpp ct dir = if dir = .decode ∧ ct = 2 then .rgb else .rgba := by
  cases dir with
  | decode =>
    by_cases h : ct = 2
    · rw [h]
      rfl
    · rw [headerBpp, colourRgb, if_neg h, if_neg fun hand => h hand.2]
  | encode => simp [headerBpp]

section
variable {s : State} {ct bd : Byte} {dir : Direction} (hok : s.status.err = false)
include hok

theorem exec_slBegin_refused (hheader : headerAccepted ct bd dir = false) :
    exec (.slBegin ct bd dir) s = .next (raise 0x20 .unsupported ct bd 0 s) := by
  rw [exec_slBegin_of_ok hok, if_pos hheader]

theorem exec_slBegin_width (hheader : headerAccepted ct bd dir = true) (hwidth : s.arg = 0 ∨ s.lineMax < s.arg.toNat) :
    exec (.slBegin ct bd dir) s = .next (raise 0x20 .width 0 0 0 s) := by
  rw [exec_slBegin_of_ok hok, if_neg (by simp [hheader]), if_pos hwidth]

/-- The state `SL.BEGIN` opens a session in. -/
theorem exec_slBegin_opens (hheader : headerAccepted ct bd dir = true) (hlow : 1 ≤ s.arg.toNat)
    (hhigh : s.arg.toNat ≤ s.lineMax) :
    exec (.slBegin ct bd dir) s =
      .next ((((s.setStatus (s.status.openSession dir (headerBpp ct dir))).setSlWidth s.arg).setSlRow 0).setSlCol 0) := by
  rw [exec_slBegin_of_ok hok, if_neg (by simp [hheader]), if_neg]
  rw [word_eq_zero_iff]
  omega

end

/-- Settles O33, by the three branches of the rule. -/
theorem slBeginOpensASessionOrRaises : Obligations.SlBeginOpensASessionOrRaises := by
  refine ⟨commandWords_slBegin, fun s ct bd dir hok => ?_⟩
  simp only [← headerAccepted_iff, ← headerBpp_eq, ← word_eq_zero_iff]
  exact ⟨fun hbad => exec_slBegin_refused hok (Bool.eq_false_iff.2 hbad), exec_slBegin_width hok, exec_slBegin_opens hok⟩

/-! ### `SL.PUSH` of a filter-type byte (R110) -/

theorem commandWords_slPush : CommandWords 0x21 0x00FFFF00 (fun w => .slPush (fieldLow w)) :=
  commandWords_of_row (r := ⟨"SL.PUSH", 0x21000000, 0xFFFFFF00, fun w => .slPush (fieldLow w)⟩)
    (by simp [opcodeMap]) rfl rfl rfl (by simp)

/-- Settles O37, by the discard rule and the session check. -/
theorem slPushNeedsASession : Obligations.SlPushNeedsASession := by
  refine ⟨commandWords_slPush, fun s v hok hact => ?_⟩
  rw [exec_slPush_of_ok hok, if_pos hact]
  rfl

theorem pushByte_filterType {s : State} (hdir : s.status.dir = .decode) (hcol : s.slCol = 0) (opc v : Byte) :
    pushByte opc v s = pushFilterByte opc v s := by
  rw [pushByte_decode hdir, pushDecode_filter hcol]

/-- Settles O34: a byte names a filter type, or is above 4 and names none. -/
theorem slPushTakesTheFilterTypeByte : Obligations.SlPushTakesTheFilterTypeByte := by
  intro s v hok hact hdir hcol
  rw [exec_slPush_result hok hact, pushByte_filterType hdir hcol, pushFilterByte]
  constructor
  · rintro ft rfl
    rw [FilterType.ofByte_toByte]
    rfl
  · intro hv
    rw [(FilterType.ofByte_eq_none v).2 hv]
    rfl

/-! ### `SL.PUSH` of a byte that is stored (R111, R114) -/

/-- A byte stored inside the row moves `SL_COL` on. -/
theorem storeCur_inside (s : State) (i : Nat) (x : Byte) :
    ∃ t, (s.storeCur i x).setSlCol (s.slCol + 1) = t ∧
      (∀ j, t.lineByte .cur j = if j = i then x else s.lineByte .cur j) ∧
      t = { s with slCol := s.slCol + 1, cur := t.cur } ∧ ∀ j, t.lineByte .prev j = s.lineByte .prev j := by
  refine ⟨_, rfl, fun j => ?_, rfl, fun j => rfl⟩
  simp only [eq_comm (a := j)]
  exact State.storeCur_lineByte_cur s i j x

/-- The last byte of a row of `len` bytes completes it. -/
theorem storeCur_last (s : State) (len i : Nat) (x : Byte) :
    ∃ t, completeRow len (s.storeCur i x) = t ∧
      (∀ j, t.lineByte .cur j = if j = i then x else s.lineByte .cur j) ∧
      t = { s with
        status := { s.status with hasRow := true }
        slRow := s.slRow + 1
        slCol := 0
        prev := t.prev
        cur := t.cur } ∧
      ∀ j, t.lineByte .prev j = if j < len then t.lineByte .cur j else s.lineByte .prev j := by
  refine ⟨_, rfl, fun j => ?_, rfl, fun j => completeRow_lineByte_prev _ len j⟩
  simp only [eq_comm (a := j)]
  exact State.storeCur_lineByte_cur s i j x

/-- Settles O35, by the two ways a stored sample goes on. -/
theorem slPushReconstructsASample : Obligations.SlPushReconstructsASample := by
  intro s v i hok hact hdir hcol hi bpp a b c x
  have hne : s.slCol ≠ 0 := fun h => by rw [(word_eq_zero_iff _).1 h] at hcol; cases hcol
  have hindex : s.slCol.toNat - 1 = i := by omega
  rw [exec_slPush_result hok hact, pushByte_decode hdir, pushDecode_sample hne]
  rcases pushSample_cases v s with ⟨hcap, -⟩ | ⟨-, hlast, h⟩ | ⟨-, hinside, h⟩
  · exact absurd hcap (by rw [hindex]; exact Nat.not_le.2 hi)
  · obtain ⟨t, ht, hcur, heq, hprev⟩ := storeCur_last s s.rowlen i x
    rw [h, hindex]
    exact ⟨t, congrArg Host.Outcome.next ht, hcur, fun hne => absurd hlast hne, fun _ => ⟨heq, hprev⟩⟩
  · obtain ⟨t, ht, hcur, heq, hprev⟩ := storeCur_inside s i x
    rw [h, hindex]
    exact ⟨t, congrArg Host.Outcome.next ht, hcur, fun _ => ⟨heq, hprev⟩, fun hlast => absurd hlast hinside⟩

/-- Settles O36, by the two ways a stored byte goes on. -/
theorem slPushStoresARasterByte : Obligations.SlPushStoresARasterByte := by
  intro s v hok hact hdir hcol
  rw [exec_slPush_result hok hact, pushByte_encode hdir]
  rcases pushEncode_cases v s with ⟨hcap, -⟩ | ⟨-, hlast, h⟩ | ⟨-, hinside, h⟩
  · exact absurd hcap (Nat.not_le.2 hcol)
  · obtain ⟨t, ht, hcur, heq, hprev⟩ := storeCur_last s (4 * s.slWidth.toNat) s.slCol.toNat v
    rw [h]
    exact ⟨t, congrArg Host.Outcome.next ht, hcur, fun hne => absurd hlast hne, fun _ => ⟨heq, hprev⟩⟩
  · obtain ⟨t, ht, hcur, heq, hprev⟩ := storeCur_inside s s.slCol.toNat v
    rw [h]
    exact ⟨t, congrArg Host.Outcome.next ht, hcur, fun _ => ⟨heq, hprev⟩, fun hlast => absurd hlast hinside⟩

/-! ### The output row (R118) -/

section
variable {s : State} (hcap : s.rowlen ≤ s.capacity)
include hcap

theorem outByte_pixel (hdir : s.status.dir = .decode) {x k : Nat} (hx : x < s.slWidth.toNat) (hk : k < s.status.bpp.toNat) :
    s.outByte (4 * x + k) = some (s.lineByte .prev (x * s.status.bpp.toNat + k)) := by
  have hbpp : s.status.bpp.toNat ≤ 4 := by cases s.status.bpp <;> decide
  have hdiv : (4 * x + k) / 4 = x := by omega
  have hmod : (4 * x + k) % 4 = k := by omega
  simp only [State.outByte, hdir, hdiv, hmod]
  rw [if_pos hk, State.rowByte_of_lt ((State.pixelByte_lt_rowlen hx hk).trans_le hcap)]

theorem outByte_encode (hdir : s.status.dir = .encode) (hrow : s.rowlen = 4 * s.slWidth.toNat) {j : Nat}
    (hj : j < 4 * s.slWidth.toNat) : s.outByte (1 + j) = some (s.lineByte .prev j) := by
  simp only [State.outByte, hdir]
  rw [if_neg (by omega), Nat.add_sub_cancel_left, State.rowByte_of_lt (by omega)]

end

theorem outByte_alpha {s : State} (hdir : s.status.dir = .decode) (hbpp : s.status.bpp = .rgb) (x : Nat) :
    s.outByte (4 * x + 3) = some 255 := by
  have hmod : (4 * x + 3) % 4 = 3 := by omega
  simp only [State.outByte, hdir, hmod, hbpp]
  rfl

theorem outByte_encode_zero {s : State} (hdir : s.status.dir = .encode) : s.outByte 0 = some 0 := by
  simp only [State.outByte, hdir, if_pos]

theorem outLen_decode {s : State} (hdir : s.status.dir = .decode) : s.outLen = 4 * s.slWidth.toNat := by
  simp only [State.outLen, hdir]

theorem outLen_encode {s : State} (hdir : s.status.dir = .encode) : s.outLen = 1 + 4 * s.slWidth.toNat := by
  simp only [State.outLen, hdir]

/-- Settles O40: the row lies inside `PREV` by the invariant. -/
theorem outputRowIsTheExpandedRow : Obligations.OutputRowIsTheExpandedRow := by
  intro s hinv _
  have hcap := hinv.rowlen_le_capacity
  constructor
  · exact fun hdir => ⟨outLen_decode hdir, fun x k => outByte_pixel hcap hdir, fun hbpp x _ => outByte_alpha hdir hbpp x⟩
  · exact fun hdir =>
      ⟨outLen_encode hdir, outByte_encode_zero hdir, fun j => outByte_encode hcap hdir (hinv.rowlen_encode hdir)⟩

end Sys2Proof

/-! # What a command can do, and the frames that follow (spec/10_state.md R21 to R28; spec/43_scanline.md R118) -/

namespace Sys2Proof

open Sys2Proof.Machine

/-! ### Every outcome of a command -/

/-- The commands of the running CRC register (R85 to R88). -/
def IsCrcCommand (i : Instr) : Prop := i = .crcInit ∨ (∃ v, i = .crcByte v) ∨ (∃ n, i = .crcWord n) ∨ i = .crcLoad

/-- The commands of R127 that have an error to raise. -/
def CanRaise (i : Instr) : Prop :=
  (∃ ft, i = .unfilt ft) ∨ (∃ n, i = .slReadw n) ∨ (∃ ct bd dir, i = .slBegin ct bd dir) ∨
    (∃ v, i = .slPush v) ∨ (∃ n, i = .slPushw n) ∨ i = .slEnd

/-- A push command and the bytes it pushes (R108, R115). -/
def Pushes (s : State) (i : Instr) (bs : List Byte) : Prop :=
  (∃ v, i = .slPush v ∧ bs = [v]) ∨ ∃ n, i = .slPushw n ∧ bs = bytesOf n s.arg

/-- What a command that completes can leave: everything `exec` does, one constructor per kind of change. -/
inductive Effect (s : State) : Instr → State → Prop
  /-- `NOP`, and a command discarded while an error is recorded. -/
  | unchanged (i : Instr) : Effect s i s
  | cleared : Effect s .clrerr (clearErr s)
  | reset : Effect s .sreset (resetBlock s)
  | crc {i : Instr} {v : Word} (hi : IsCrcCommand i) (hload : i = .crcLoad → v = s.arg) : Effect s i (s.setCrcState v)
  | compared (b : Bool) : Effect s .crcChk (s.setStatus (s.status.setCrcMatch b))
  | result {i : Instr} (v : Word) (hi : IsResultCommand i) : Effect s i (s.setResult v)
  | raised {i : Instr} (opc : Byte) {code : ErrCode} (d0 d1 : Byte) (hi : CanRaise i) (hcode : code ≠ .none) :
      Effect s i (raise opc code d0 d1 0 s)
  | opened {ct bd : Byte} {dir : Direction} (hheader : headerAccepted ct bd dir = true) (hlow : 1 ≤ s.arg.toNat)
      (hhigh : s.arg.toNat ≤ s.lineMax) : Effect s (.slBegin ct bd dir)
        ((((s.setStatus (s.status.openSession dir (headerBpp ct dir))).setSlWidth s.arg).setSlRow 0).setSlCol 0)
  | closed (hact : s.status.slActive = true) (hcol : s.slCol = 0) :
      Effect s .slEnd (s.setStatus (s.status.setSlActive false))
  | pushed {i : Instr} {bs : List Byte} {t : State} (hi : Pushes s i bs) (hok : s.status.err = false)
      (hact : s.status.slActive = true) (h : (pushBytes i.opcode bs s).result = .next t) : Effect s i t

theorem pushBytes_singleton (opc v : Byte) (s : State) : pushBytes opc [v] s = pushByte opc v s := by
  rw [pushBytes]
  split <;> simp only [pushBytes, *]

theorem pushBytes_cons_of_failed {opc v : Byte} {s t : State} (h : pushByte opc v s = .failed t) (vs : List Byte) :
    pushBytes opc (v :: vs) s = .failed t := by
  rw [pushBytes, h]

section
variable {s t : State} (hok : s.status.err = false)
include hok

theorem unfilt_effect {v : Byte} (h : exec (.unfilt v) s = .next t) : Effect s (.unfilt v) t := by
  rw [exec_unfilt_of_ok hok] at h
  split at h <;> cases h
  · exact .raised _ _ _ (by simp [CanRaise]) (by simp)
  · exact .result _ (by simp [IsResultCommand])

theorem slBegin_effect {ct bd : Byte} {dir : Direction} (h : exec (.slBegin ct bd dir) s = .next t) :
    Effect s (.slBegin ct bd dir) t := by
  rw [exec_slBegin_of_ok hok] at h
  split at h
  case isTrue =>
    cases h
    exact .raised _ _ _ (by simp [CanRaise]) (by simp)
  case isFalse hheader =>
    split at h <;> cases h
    case isTrue => exact .raised _ _ _ (by simp [CanRaise]) (by simp)
    case isFalse hwidth =>
      rw [word_eq_zero_iff] at hwidth
      exact .opened (Bool.eq_true_of_not_eq_false hheader) (by omega) (by omega)

theorem slReadw_effect {n : Nat} (h : exec (.slReadw n) s = .next t) : Effect s (.slReadw n) t := by
  by_cases hbad : s.status.hasRow = false ∨ s.outLen < s.arg.toNat + n
  · rw [exec_slReadw_index hok hbad] at h
    cases h
    exact .raised _ _ _ (by simp [CanRaise]) (by simp)
  · obtain ⟨hrow, hend⟩ := not_or.1 hbad
    rw [exec_slReadw_of_ok hok, if_neg hrow, if_neg hend] at h
    split at h <;> cases h
    exact .result _ (by simp [IsResultCommand])

theorem slEnd_effect (h : exec .slEnd s = .next t) : Effect s .slEnd t := by
  rw [exec_slEnd_of_ok hok] at h
  split at h
  case isTrue =>
    cases h
    exact .raised _ _ _ (by simp [CanRaise]) (by simp)
  case isFalse hact =>
    split at h <;> cases h
    case isTrue => exact .raised _ _ _ (by simp [CanRaise]) (by simp)
    case isFalse hcol => exact .closed (Bool.eq_true_of_not_eq_false hact) (not_not.1 hcol)

theorem slPush_effect {v : Byte} (h : exec (.slPush v) s = .next t) : Effect s (.slPush v) t := by
  rw [exec_slPush_of_ok hok] at h
  split at h
  case isTrue =>
    cases h
    exact .raised _ _ _ (by simp [CanRaise]) (by simp)
  case isFalse hact =>
    rw [← pushBytes_singleton] at h
    exact .pushed (.inl ⟨v, rfl, rfl⟩) hok (Bool.eq_true_of_not_eq_false hact) h

theorem slPushw_effect {n : Nat} (h : exec (.slPushw n) s = .next t) : Effect s (.slPushw n) t := by
  rw [exec_slPushw_of_ok hok] at h
  split at h
  case isTrue =>
    cases h
    exact .raised _ _ _ (by simp [CanRaise]) (by simp)
  case isFalse hact => exact .pushed (.inr ⟨n, rfl, rfl⟩) hok (Bool.eq_true_of_not_eq_false hact) h

theorem exec_effect_of_ok {i : Instr} (h : exec i s = .next t) : Effect s i t := by
  cases i with
  | nop => cases h; exact .unchanged _
  | clrerr => cases h; exact .cleared
  | sreset => cases h; exact .reset
  | crcInit =>
    cases (exec_crcInit_of_ok hok).symm.trans h
    exact .crc (.inl rfl) nofun
  | crcByte v =>
    cases (exec_crcByte_of_ok hok v).symm.trans h
    exact .crc (.inr (.inl ⟨v, rfl⟩)) nofun
  | crcWord n =>
    cases (exec_crcWord_of_ok hok n).symm.trans h
    exact .crc (.inr (.inr (.inl ⟨n, rfl⟩))) nofun
  | crcLoad =>
    cases (exec_crcLoad_of_ok hok).symm.trans h
    exact .crc (.inr (.inr (.inr rfl))) fun _ => rfl
  | crcChk =>
    cases (exec_crcChk_of_ok hok).symm.trans h
    exact .compared _
  | crcTab idx =>
    cases (exec_crcTab_of_ok hok idx).symm.trans h
    exact .result _ (.inl ⟨idx, rfl⟩)
  | paeth a b c =>
    cases (exec_paeth_of_ok hok a b c).symm.trans h
    exact .result _ (.inr (.inl ⟨a, b, c, rfl⟩))
  | unfilt v => exact unfilt_effect hok h
  | slBegin ct bd dir => exact slBegin_effect hok h
  | slReadw n => exact slReadw_effect hok h
  | slEnd => exact slEnd_effect hok h
  | slPush v => exact slPush_effect hok h
  | slPushw n => exact slPushw_effect hok h

end

/-- A command that completes has one of the effects. -/
theorem exec_effect {i : Instr} {s t : State} (h : exec i s = .next t) : Effect s i t := by
  cases herr : s.status.err with
  | false => exact exec_effect_of_ok herr h
  | true =>
    by_cases hsreset : i = .sreset
    · subst hsreset; cases h; exact .reset
    · by_cases hclrerr : i = .clrerr
      · subst hclrerr; cases h; exact .cleared
      · by_cases hnop : i = .nop
        · subst hnop; cases h; exact .unchanged _
        · rw [exec_of_err herr i hnop hclrerr hsreset] at h
          cases h
          exact .unchanged i

/-! ### Frames of the commands that push nothing -/

theorem Pushes.bytes_unique {s : State} {i : Instr} {bs bs' : List Byte} (h : Pushes s i bs) (h' : Pushes s i bs') :
    bs = bs' := by
  obtain ⟨v, rfl, rfl⟩ | ⟨n, rfl, rfl⟩ := h <;> simp [Pushes] at h' <;> exact h'.symm

theorem Pushes.canRaise {s : State} {i : Instr} {bs : List Byte} (h : Pushes s i bs) : CanRaise i := by
  obtain ⟨v, rfl, -⟩ | ⟨n, rfl, -⟩ := h <;> simp [CanRaise]

section
variable {s t : State} {i : Instr} (h : Effect s i t)
include h

theorem Effect.crc_frame (hi : IsCrcCommand i) : t = { s with crcState := t.crcState } ∧ SameLineBytes s t := by
  have hresult : ¬ IsResultCommand i := by
    obtain rfl | ⟨v, rfl⟩ | ⟨n, rfl⟩ | rfl := hi <;> simp [IsResultCommand]
  have hraise : ¬ CanRaise i := by
    obtain rfl | ⟨v, rfl⟩ | ⟨n, rfl⟩ | rfl := hi <;> simp [CanRaise]
  cases h with
  | unchanged | crc => exact ⟨rfl, fun _ _ => rfl⟩
  | cleared | reset | compared => simp [IsCrcCommand] at hi
  | result _ hi' => exact absurd hi' hresult
  | raised _ _ _ hi' => exact absurd hi' hraise
  | opened | closed => simp [IsCrcCommand] at hi
  | pushed hi' => exact absurd hi'.canRaise hraise

theorem Effect.chk_frame (hi : i = .crcChk) :
    t = { s with status := { s.status with crcMatch := t.status.crcMatch } } ∧ SameLineBytes s t := by
  subst hi
  cases h with
  | unchanged | compared => exact ⟨rfl, fun _ _ => rfl⟩
  | crc hi' => simp [IsCrcCommand] at hi'
  | result _ hi' => simp [IsResultCommand] at hi'
  | raised _ _ _ hi' => simp [CanRaise] at hi'
  | pushed hi' => simp [Pushes] at hi'

/-- `CRC.TAB` and `PAETH` have no error to raise (R128). -/
theorem Effect.value_frame (hi : (∃ n, i = .crcTab n) ∨ (∃ a b c, i = .paeth a b c)) :
    t = { s with result := t.result } ∧ SameLineBytes s t := by
  have hraise : ¬ CanRaise i := by
    obtain ⟨n, rfl⟩ | ⟨a, b, c, rfl⟩ := hi <;> simp [CanRaise]
  cases h with
  | unchanged | result => exact ⟨rfl, fun _ _ => rfl⟩
  | cleared | reset | compared | opened | closed => simp at hi
  | crc hi' => obtain ⟨n, rfl⟩ | ⟨a, b, c, rfl⟩ := hi <;> simp [IsCrcCommand] at hi'
  | raised _ _ _ hi' => exact absurd hi' hraise
  | pushed hi' => exact absurd hi'.canRaise hraise

theorem Effect.checkedValue_frame (hi : (∃ ft, i = .unfilt ft) ∨ (∃ n, i = .slReadw n)) :
    t = { s with
      result := t.result
      status := { s.status with err := t.status.err }
      errInfo := t.errInfo
      errRow := t.errRow } ∧ SameLineBytes s t := by
  cases h with
  | unchanged | result | raised => exact ⟨rfl, fun _ _ => rfl⟩
  | cleared | reset | compared | opened | closed => simp at hi
  | crc hi' => obtain ⟨ft, rfl⟩ | ⟨n, rfl⟩ := hi <;> simp [IsCrcCommand] at hi'
  | pushed hi' => obtain ⟨ft, rfl⟩ | ⟨n, rfl⟩ := hi <;> simp [Pushes] at hi'

theorem Effect.control_frame (hi : i = .nop ∨ i = .clrerr) :
    t = { s with status := { s.status with err := t.status.err }, errInfo := t.errInfo, errRow := t.errRow } ∧
      SameLineBytes s t := by
  cases h with
  | unchanged | cleared | raised => exact ⟨rfl, fun _ _ => rfl⟩
  | reset | compared | opened | closed => simp at hi
  | crc hi' => obtain rfl | rfl := hi <;> simp [IsCrcCommand] at hi'
  | result _ hi' => obtain rfl | rfl := hi <;> simp [IsResultCommand] at hi'
  | pushed hi' => obtain rfl | rfl := hi <;> simp [Pushes] at hi'

theorem Effect.slBegin_frame {ct bd : Byte} {dir : Direction} (hi : i = .slBegin ct bd dir) :
    t = { s with
      status := { t.status with crcMatch := s.status.crcMatch }
      errInfo := t.errInfo
      errRow := t.errRow
      slWidth := t.slWidth
      slRow := t.slRow
      slCol := t.slCol } ∧ SameLineBytes s t := by
  subst hi
  cases h with
  | unchanged | raised | opened => exact ⟨rfl, fun _ _ => rfl⟩
  | crc hi' => simp [IsCrcCommand] at hi'
  | result _ hi' => simp [IsResultCommand] at hi'
  | pushed hi' => simp [Pushes] at hi'

theorem Effect.slEnd_frame (hi : i = .slEnd) :
    t = { s with
      status := { s.status with slActive := t.status.slActive, err := t.status.err }
      errInfo := t.errInfo
      errRow := t.errRow } ∧ SameLineBytes s t := by
  subst hi
  cases h with
  | unchanged | raised | closed => exact ⟨rfl, fun _ _ => rfl⟩
  | crc hi' => simp [IsCrcCommand] at hi'
  | result _ hi' => simp [IsResultCommand] at hi'
  | pushed hi' => simp [Pushes] at hi'

end

/-- Settles O42, by the frame of each family of commands. -/
theorem frameOfCommandsWithoutASession : Obligations.FrameOfCommandsWithoutASession := fun _ _ _ h =>
  have heffect := exec_effect h
  ⟨heffect.crc_frame, heffect.chk_frame, heffect.value_frame, heffect.checkedValue_frame, heffect.control_frame⟩

/-- Settles O43, by the frames of the two commands. -/
theorem frameOfOpeningAndClosingASession : Obligations.FrameOfOpeningAndClosingASession := fun _ _ _ h =>
  ⟨fun ⟨_, _, _, hi⟩ => (exec_effect h).slBegin_frame hi, (exec_effect h).slEnd_frame⟩

/-! ### The frame of a sequence of pushes (R108 to R115) -/

/-- What pushes of `bs` leave unchanged, with the number of rows they complete. -/
structure PushFrame (opc : Byte) (bs : List Byte) (s t : State) : Prop where
  registers : t = { s with
    status := { s.status with
      err := t.status.err
      slActive := t.status.slActive
      hasRow := t.status.hasRow
      ftype := t.status.ftype }
    errInfo := t.errInfo
    errRow := t.errRow
    slRow := t.slRow
    slCol := t.slCol
    prev := t.prev
    cur := t.cur }
  cur : ∀ j, j ∉ pushTargets opc bs s → t.lineByte .cur j = s.lineByte .cur j
  rows : ∃ k, k ≤ bs.length ∧ t.slRow = s.slRow + BitVec.ofNat 32 k ∧
    (k = 0 → ∀ j, t.lineByte .prev j = s.lineByte .prev j)
  beyond : ∀ j, rowSize s ≤ j → t.lineByte .prev j = s.lineByte .prev j
  hasRow : s.status.hasRow = true → t.status.hasRow = true
  ftype : s.status.dir = .encode → t.status.ftype = s.status.ftype

theorem PushFrame.nil (opc : Byte) (s : State) : PushFrame opc [] s s :=
  ⟨rfl, fun _ _ => rfl, ⟨0, le_rfl, (BitVec.add_zero _).symm, fun _ _ => rfl⟩, fun _ _ => rfl, id, fun _ => rfl⟩

/-- A byte that is taken keeps a completed row, and in encode the filter type. -/
theorem taken_flags {opc v : Byte} {s t : State} (h : pushByte opc v s = .taken t) :
    (s.status.hasRow = true → t.status.hasRow = true) ∧ (s.status.dir = .encode → t.status.ftype = s.status.ftype) := by
  obtain ⟨_, hdir, -, -, -, e⟩ | ⟨-, -, -, -, e⟩ | ⟨_, -, -, -, e⟩ | ⟨_, -, -, -, e⟩ | ⟨_, -, -, e⟩ :=
    pushByte_cases opc v s <;> cases e.symm.trans h
  · exact ⟨id, fun hencode => by cases hdir.symm.trans hencode⟩
  · exact ⟨id, fun _ => rfl⟩
  · exact ⟨fun _ => rfl, fun _ => rfl⟩

theorem PushFrame.of_failed {opc v : Byte} {vs : List Byte} {s t : State} (h : pushByte opc v s = .failed t) :
    PushFrame opc (v :: vs) s t := by
  obtain ⟨-, -, -, rfl⟩ := failed_fields h
  exact ⟨rfl, fun _ _ => rfl, ⟨0, Nat.zero_le _, (BitVec.add_zero _).symm, fun _ _ => rfl⟩, fun _ _ => rfl, id,
    fun _ => rfl⟩

theorem PushFrame.cons {opc v : Byte} {vs : List Byte} {s u t : State} (h : pushByte opc v s = .taken u)
    (hrest : PushFrame opc vs u t) : PushFrame opc (v :: vs) s t := by
  obtain ⟨hregs, hcur, ⟨k, hk, hrow, hprev⟩, hbeyond, hkeep, hftype⟩ := hrest
  obtain ⟨hkeep', hftype'⟩ := taken_flags h
  obtain ⟨hcur', hprev'⟩ := taken_lineByte h
  have htargets : pushTargets opc (v :: vs) s = (pushTarget s).toList ++ pushTargets opc vs u := by
    rw [pushTargets, h]
  refine ⟨?_, fun j hj => ?_, ?_, fun j hj => ?_, hkeep ∘ hkeep', fun hdir => ?_⟩
  · rw [taken_fields h] at hregs
    exact hregs
  · rw [htargets, List.mem_append, not_or] at hj
    rw [hcur j hj.2, hcur' j hj.1]
  · obtain ⟨hu, hsame⟩ | ⟨hu, -⟩ := hprev'
    · exact ⟨k, Nat.le_succ_of_le hk, by rw [hrow, hu], fun h0 j => by rw [hprev h0, hsame]⟩
    · refine ⟨k + 1, Nat.succ_le_succ hk, ?_, fun h0 => absurd h0 (Nat.succ_ne_zero k)⟩
      rw [hrow, hu]
      bv_omega
  · rw [hbeyond j (by rwa [taken_rowSize h])]
    obtain ⟨-, hsame⟩ | ⟨-, hbelow⟩ := hprev'
    · exact hsame j
    · exact hbelow j hj
  · rw [hftype (by rw [taken_fields h]; exact hdir), hftype' hdir]

theorem pushBytes_frame {opc : Byte} {bs : List Byte} {s t : State} (h : (pushBytes opc bs s).result = .next t) :
    PushFrame opc bs s t := by
  induction bs generalizing s with
  | nil =>
    cases h
    exact .nil opc _
  | cons v vs ih =>
    rw [pushBytes] at h
    split at h
    case h_1 u hu => exact .cons hu (ih h)
    case h_2 u hu =>
      cases h
      exact .of_failed hu
    case h_3 => cases h

/-- Fewer than `2^32` completed rows show in `SL_ROW`. -/
theorem PushFrame.prev_of_slRow {opc : Byte} {bs : List Byte} {s t : State} (h : PushFrame opc bs s t)
    (hbs : bs.length ≤ 4) (hrow : t.slRow = s.slRow) (j : Nat) : t.lineByte .prev j = s.lineByte .prev j := by
  obtain ⟨k, hk, hk', hprev⟩ := h.rows
  refine hprev ?_ j
  rw [hrow] at hk'
  bv_omega

/-- A push command that completes is discarded, raises `E_STATE`, or pushes its bytes. -/
theorem Effect.pushFrame {s t : State} {i : Instr} {bs : List Byte} (h : Effect s i t) (hi : Pushes s i bs) :
    PushFrame i.opcode bs s t := by
  have hcrc : ¬ IsCrcCommand i := by obtain ⟨v, rfl, -⟩ | ⟨n, rfl, -⟩ := hi <;> simp [IsCrcCommand]
  have hresult : ¬ IsResultCommand i := by obtain ⟨v, rfl, -⟩ | ⟨n, rfl, -⟩ := hi <;> simp [IsResultCommand]
  cases h with
  | unchanged | raised =>
    exact ⟨rfl, fun _ _ => rfl, ⟨0, Nat.zero_le _, (BitVec.add_zero _).symm, fun _ _ => rfl⟩, fun _ _ => rfl, id,
    fun _ => rfl⟩
  | cleared | reset | compared | opened | closed => simp [Pushes] at hi
  | crc hi' => exact absurd hi' hcrc
  | result _ hi' => exact absurd hi' hresult
  | pushed hi' _ _ hpush =>
    have hbytes : _ = bs := hi'.bytes_unique hi
    rw [hbytes] at hpush
    exact pushBytes_frame hpush

/-- Settles O44, by the frame of the bytes pushed. -/
theorem frameOfThePushes : Obligations.FrameOfThePushes := by
  intro i bs s t h hi
  have hbs : bs.length ≤ 4 := by
    obtain ⟨v, -, rfl⟩ | ⟨n, -, hn, rfl⟩ := hi
    · simp
    · rwa [length_bytesOf]
  have hpushes : Pushes s i bs := hi.imp_right fun ⟨n, hi, _, hb⟩ => ⟨n, hi, hb⟩
  have hframe : PushFrame i.opcode bs s t := (exec_effect h).pushFrame hpushes
  refine ⟨hframe.registers, hframe.cur, hframe.prev_of_slRow hbs, fun hdir j hj => ?_, fun hdir j hj => ?_⟩
  · exact hframe.beyond j (by rwa [rowSize, hdir])
  · exact hframe.beyond j (by rwa [rowSize, hdir])

/-! ### Which commands write a register (R24, R26, R28) -/

section
variable {s t : State} {i : Instr} (h : Effect s i t)
include h

theorem Effect.arg : t.arg = s.arg ∨ i = .sreset ∧ t.arg = 0 := by
  cases h with
  | reset => exact .inr ⟨rfl, rfl⟩
  | pushed _ _ _ hpush => exact .inl (by rw [(pushBytes_frame hpush).registers])
  | _ => exact .inl rfl

theorem Effect.crcState :
    t.crcState = s.crcState ∨ (IsCrcCommand i ∧ (i = .crcLoad → t.crcState = s.arg)) ∨ i = .sreset := by
  cases h with
  | reset => exact .inr (.inr rfl)
  | crc hi hload => exact .inr (.inl ⟨hi, hload⟩)
  | pushed _ _ _ hpush => exact .inl (by rw [(pushBytes_frame hpush).registers])
  | _ => exact .inl rfl

theorem Effect.slWidth :
    t.slWidth = s.slWidth ∨ (∃ ct bd dir, i = .slBegin ct bd dir ∧ t.slWidth = s.arg) ∨
      i = .sreset ∧ t.slWidth = 0 := by
  cases h with
  | reset => exact .inr (.inr ⟨rfl, rfl⟩)
  | opened => exact .inr (.inl ⟨_, _, _, rfl, rfl⟩)
  | pushed _ _ _ hpush => exact .inl (by rw [(pushBytes_frame hpush).registers])
  | _ => exact .inl rfl

end

/-- Settles O46, by what each effect does to the three registers. -/
theorem argCrcStateAndWidthAreWrittenOnlyByTheirCommands :
    Obligations.ArgCrcStateAndWidthAreWrittenOnlyByTheirCommands := by
  intro i s t h
  have heffect := exec_effect h
  refine ⟨heffect.arg.resolve_left, fun hne => ?_, heffect.slWidth.resolve_left⟩
  obtain ⟨rfl | hbyte | hword | rfl, hload⟩ | hreset := heffect.crcState.resolve_left hne
  · exact .inl rfl
  · exact .inr (.inl hbyte)
  · exact .inr (.inr (.inl hword))
  · exact .inr (.inr (.inr (.inl ⟨rfl, hload rfl⟩)))
  · exact .inr (.inr (.inr (.inr hreset)))

/-! ### Which commands write a field of `STATUS` (R21) -/

theorem Pushes.isPush {s : State} {i : Instr} {bs : List Byte} (h : Pushes s i bs) :
    (∃ v, i = .slPush v) ∨ (∃ n, i = .slPushw n) :=
  h.imp (fun ⟨v, hi, _⟩ => ⟨v, hi⟩) (fun ⟨n, hi, _⟩ => ⟨n, hi⟩)

/-- Bytes pushed keep `SL_ACTIVE`, or one of them was refused. -/
theorem pushBytes_slActive {opc : Byte} {bs : List Byte} {s t : State} (h : (pushBytes opc bs s).result = .next t) :
    t.status.slActive = s.status.slActive ∨ t.errInfo.code = .filter := by
  obtain htaken | hfailed := taken_or_failed_of_result h
  · exact .inl (by rw [pushBytes_taken_status htaken])
  · obtain ⟨_, _, _, -, hbyte⟩ := pushBytes_failed hfailed
    obtain ⟨-, -, -, rfl⟩ := failed_fields hbyte
    exact .inr rfl

section
variable {s t : State} {i : Instr} (h : Effect s i t) (hi : i ≠ .sreset)
include h hi

theorem Effect.err (hbefore : s.status.err = true) (hafter : t.status.err = false) : i = .clrerr := by
  cases h with
  | cleared => rfl
  | reset => exact absurd rfl hi
  | raised => cases hafter
  | pushed _ hok => cases hok.symm.trans hbefore
  | _ => cases hbefore.symm.trans hafter

theorem Effect.crcMatch : t.status.crcMatch = s.status.crcMatch ∨ i = .crcChk := by
  cases h with
  | compared => exact .inr rfl
  | reset => exact absurd rfl hi
  | pushed _ _ _ hpush => exact .inl (by rw [(pushBytes_frame hpush).registers])
  | _ => exact .inl rfl

theorem Effect.slActive :
    t.status.slActive = s.status.slActive ∨ (∃ ct bd dir, i = .slBegin ct bd dir) ∨ i = .slEnd ∨
      (((∃ v, i = .slPush v) ∨ (∃ n, i = .slPushw n)) ∧ t.errInfo.code = .filter) := by
  cases h with
  | reset => exact absurd rfl hi
  | opened => exact .inr (.inl ⟨_, _, _, rfl⟩)
  | closed => exact .inr (.inr (.inl rfl))
  | pushed hpushes _ _ hpush =>
    exact (pushBytes_slActive hpush).imp_right fun hcode => .inr (.inr ⟨hpushes.isPush, hcode⟩)
  | _ => exact .inl rfl

theorem Effect.dir_bpp :
    (t.status.dir = s.status.dir ∧ t.status.bpp = s.status.bpp) ∨ ∃ ct bd dir, i = .slBegin ct bd dir := by
  cases h with
  | reset => exact absurd rfl hi
  | opened => exact .inr ⟨_, _, _, rfl⟩
  | pushed _ _ _ hpush => exact .inl (by rw [(pushBytes_frame hpush).registers]; exact ⟨rfl, rfl⟩)
  | _ => exact .inl ⟨rfl, rfl⟩

theorem Effect.hasRow :
    t.status.hasRow = s.status.hasRow ∨ ((∃ ct bd dir, i = .slBegin ct bd dir) ∧ t.status.hasRow = false) ∨
      (((∃ v, i = .slPush v) ∨ (∃ n, i = .slPushw n)) ∧ t.status.hasRow = true) := by
  cases h with
  | reset => exact absurd rfl hi
  | opened => exact .inr (.inl ⟨⟨_, _, _, rfl⟩, rfl⟩)
  | pushed hpushes _ _ hpush =>
    have hkeep := (pushBytes_frame hpush).hasRow
    cases ht : t.status.hasRow with
    | true => exact .inr (.inr ⟨hpushes.isPush, rfl⟩)
    | false => exact .inl (Bool.eq_false_iff.2 fun hs => by cases ht.symm.trans (hkeep hs)).symm
  | _ => exact .inl rfl

theorem Effect.ftype :
    t.status.ftype = s.status.ftype ∨ ((∃ ct bd dir, i = .slBegin ct bd dir) ∧ t.status.ftype = .none) ∨
      (((∃ v, i = .slPush v) ∨ (∃ n, i = .slPushw n)) ∧ s.status.dir = .decode) := by
  cases h with
  | reset => exact absurd rfl hi
  | opened => exact .inr (.inl ⟨⟨_, _, _, rfl⟩, rfl⟩)
  | pushed hpushes _ _ hpush =>
    cases hdir : s.status.dir with
    | decode => exact .inr (.inr ⟨hpushes.isPush, rfl⟩)
    | encode => exact .inl ((pushBytes_frame hpush).ftype hdir)
  | _ => exact .inl rfl

end

/-- Settles O47, field by field. -/
theorem statusFieldsAreWrittenOnlyByTheirCommands : Obligations.StatusFieldsAreWrittenOnlyByTheirCommands := by
  intro i s t h hi
  have heffect := exec_effect h
  exact ⟨heffect.err hi, (heffect.crcMatch hi).resolve_left, (heffect.slActive hi).resolve_left,
    fun hne => (heffect.dir_bpp hi).resolve_left fun ⟨hdir, hbpp⟩ => hne.elim (absurd hdir) (absurd hbpp),
    (heffect.hasRow hi).resolve_left, (heffect.ftype hi).resolve_left⟩

/-! ### The output row between rows (R118, R145) -/

/-- The output row depends on the direction, the pixel size, the width and `PREV`. -/
theorem output_congr {s t : State} (hmax : t.lineMax = s.lineMax) (hdir : t.status.dir = s.status.dir)
    (hbpp : t.status.bpp = s.status.bpp) (hwidth : t.slWidth = s.slWidth)
    (hprev : ∀ j, t.lineByte .prev j = s.lineByte .prev j) :
    t.outLen = s.outLen ∧ ∀ j, t.outByte j = s.outByte j := by
  have hrow : ∀ j, t.rowByte j = s.rowByte j := fun j => by
    rw [State.rowByte, State.rowByte, State.capacity, State.capacity, hmax, hprev]
  constructor
  · simp only [State.outLen, hdir, hwidth]
  · intro j
    simp only [State.outByte, hdir, hbpp, hrow]

/-- A push command has 1 to 4 bytes. -/
theorem Pushes.length_le {s : State} {i : Instr} {bs : List Byte} (h : Pushes s i bs) (hwf : i.wellFormed = true) :
    bs.length ≤ 4 := by
  obtain ⟨v, -, rfl⟩ | ⟨n, rfl, rfl⟩ := h
  · simp
  · rw [length_bytesOf]
    exact (of_decide_eq_true hwf).2

/-- Settles O51: the commands left write nothing the output row depends on. -/
theorem outputRowStaysUntilTheNextRow : Obligations.OutputRowStaysUntilTheNextRow := by
  intro i s t hwf h hrow hsame hreset hbegin
  cases exec_effect h with
  | reset => exact absurd rfl hreset
  | opened => exact absurd rfl (hbegin _ _ _)
  | pushed hpushes _ _ hpush =>
    have hframe := pushBytes_frame hpush
    refine ⟨hframe.hasRow hrow, output_congr ?_ ?_ ?_ ?_ (hframe.prev_of_slRow (hpushes.length_le hwf) hsame)⟩ <;>
      rw [hframe.registers]
  | _ => exact ⟨hrow, output_congr rfl rfl rfl rfl fun _ => rfl⟩

end Sys2Proof

/-! # The invariant: at reset, kept by every step, and no step stops (spec/10_state.md R34) -/

namespace Sys2Proof

open Sys2Proof.Machine

/-! ### Reset -/

theorem toWord_reset : ErrInfo.reset.toWord = 0 := by decide

/-- Reset values meet the invariant for any `LINE_MAX` of R6, whatever lies outside the block. -/
theorem inv_reset {s : State} (hlow : 1 ≤ s.lineMax) (hhigh : s.lineMax ≤ 2 ^ 28) (hs : s = { State.reset with
    lineMax := s.lineMax
    inReset := s.inReset
    resets := s.resets
    inbox := s.inbox
    responses := s.responses }) : Inv s := by
  rw [hs]
  exact {
    lineMax_pos := hlow
    lineMax_le := hhigh
    err_iff := ⟨fun _ => rfl, fun _ => rfl⟩
    clear_record := fun _ => ⟨toWord_reset, rfl⟩
    before_session := fun _ => ⟨rfl, rfl, rfl, rfl⟩
    width_range := fun hbpp => absurd rfl hbpp
    encode_bpp := nofun
    col_decode := fun _ => Nat.zero_le _
    col_encode := nofun
    encode_ftype := nofun
    rows := fun hrow => absurd rfl hrow
    closed_col := fun _ => rfl
    prev_wf := List.Pairwise.nil
    cur_wf := List.Pairwise.nil
    prev_range := nofun
    cur_range := nofun
    prev_written := nofun
    cur_decode := fun _ _ hi => absurd hi (Nat.not_lt_zero _)
    cur_encode := nofun }

/-- Settles O52, by `inv_reset`. -/
theorem resetStateMeetsTheInvariant : Obligations.ResetStateMeetsTheInvariant := fun _ =>
  inv_reset lineMax_range.1 lineMax_range.2 rfl

theorem headerBpp_ne_unset (ct : Byte) (dir : Direction) : headerBpp ct dir ≠ .unset := by
  rw [headerBpp_eq]
  split <;> simp

theorem headerBpp_encode {dir : Direction} (hdir : dir = .encode) (ct : Byte) : headerBpp ct dir = .rgba := by
  rw [hdir]
  rfl

/-! ### What the invariant does not speak of -/

section
variable {s t : State} (h : Inv s)
include h

/-- `ARG`, `RESULT`, `CRC_STATE`, the reset input, the count of resets, the port and the answers are not in the invariant. -/
theorem Inv.of_registers (ht : t = { s with
    arg := t.arg
    result := t.result
    crcState := t.crcState
    inReset := t.inReset
    resets := t.resets
    inbox := t.inbox
    responses := t.responses }) : Inv t := by
  rw [ht]
  exact { h with }

theorem Inv.setCrcMatch (b : Bool) : Inv (s.setStatus (s.status.setCrcMatch b)) := { h with }

/-! ### The error record -/

theorem Inv.raise (opc : Byte) {code : ErrCode} (d0 d1 : Byte) (row : Word) (hcode : code ≠ .none) :
    Inv (raise opc code d0 d1 row s) :=
  { h with
    err_iff := ⟨nofun, fun hnone => absurd hnone hcode⟩
    clear_record := nofun }

theorem Inv.clearErr : Inv (clearErr s) :=
  { h with
    err_iff := ⟨fun _ => rfl, fun _ => rfl⟩
    clear_record := fun _ => ⟨toWord_reset, rfl⟩ }

/-! ### A session opens and closes -/

theorem Inv.resetBlock : Inv (resetBlock s) := inv_reset h.lineMax_pos h.lineMax_le rfl

theorem Inv.closeSession (hcol : s.slCol = 0) : Inv (s.setStatus (s.status.setSlActive false)) :=
  { h with
    before_session := fun hbpp =>
      have ⟨hwidth, _, hrow, hdir⟩ := h.before_session hbpp
      ⟨hwidth, rfl, hrow, hdir⟩
    closed_col := fun _ => hcol }

theorem Inv.openSession (ct : Byte) (dir : Direction) (hlow : 1 ≤ s.arg.toNat) (hhigh : s.arg.toNat ≤ s.lineMax) :
    Inv ((((s.setStatus (s.status.openSession dir (headerBpp ct dir))).setSlWidth s.arg).setSlRow 0).setSlCol 0) :=
  { h with
    before_session := fun hbpp => absurd hbpp (headerBpp_ne_unset ct dir)
    width_range := fun _ => ⟨hlow, hhigh⟩
    encode_bpp := fun hdir => headerBpp_encode hdir ct
    col_decode := fun _ => Nat.zero_le _
    col_encode := fun (hdir : dir = .encode) => Nat.mul_pos hlow (by
      show 0 < (headerBpp ct dir).toNat
      rw [headerBpp_encode hdir]
      decide)
    encode_ftype := fun _ => rfl
    rows := fun hrow => absurd rfl hrow
    closed_col := fun _ => rfl
    prev_written := nofun
    cur_decode := fun _ _ hi => absurd hi (Nat.not_lt_zero _)
    cur_encode := fun _ _ hi => absurd hi (Nat.not_lt_zero _) }

end

/-! ### Where a push stores its byte -/

theorem slCol_of_target_decode {s : State} {i : Nat} (hdir : s.status.dir = .decode) (ht : pushTarget s = some i) :
    s.slCol.toNat = i + 1 := by
  simp only [pushTarget, hdir] at ht
  split at ht
  case isTrue => cases ht
  case isFalse hcol =>
    rw [word_eq_zero_iff] at hcol
    cases ht
    omega

theorem slCol_of_target_encode {s : State} {i : Nat} (hdir : s.status.dir = .encode) (ht : pushTarget s = some i) :
    s.slCol.toNat = i := by
  simp only [pushTarget, hdir] at ht
  exact Option.some_inj.1 ht

section
variable {s : State} (h : Inv s)
include h

theorem Inv.rowSize_eq : rowSize s = s.rowlen := by
  cases hdir : s.status.dir with
  | decode => rw [rowSize, hdir]
  | encode => rw [h.rowlen_encode hdir, rowSize, hdir]

theorem Inv.rowlen_pos (hbpp : s.status.bpp ≠ .unset) : 0 < s.rowlen := by
  refine Nat.mul_pos (h.width_range hbpp).1 ?_
  cases hp : s.status.bpp with
  | unset => exact absurd hp hbpp
  | rgb | rgba => decide

theorem Inv.target_lt {i : Nat} (ht : pushTarget s = some i) : i < s.rowlen := by
  cases hdir : s.status.dir with
  | decode =>
    have hcol := h.col_decode hdir
    rw [slCol_of_target_decode hdir ht] at hcol
    exact hcol
  | encode =>
    have hcol := h.col_encode hdir
    rw [slCol_of_target_encode hdir ht] at hcol
    exact hcol

theorem Inv.cur_before_target {i : Nat} (ht : pushTarget s = some i) {j : Nat} (hj : j < i) :
    (s.cur.stored j).isSome = true := by
  cases hdir : s.status.dir with
  | decode => exact h.cur_decode hdir j (by rw [slCol_of_target_decode hdir ht]; omega)
  | encode => exact h.cur_encode hdir j (by rw [slCol_of_target_encode hdir ht]; exact hj)

/-! ### Pushes -/

theorem Inv.takeFilterType (hact : s.status.slActive = true) (hdir : s.status.dir = .decode) (ft : FilterType) :
    Inv ((s.setStatus (s.status.setFtype ft)).setSlCol 1) :=
  { h with
    col_decode := fun _ => h.rowlen_pos (h.bpp_ne_unset hact)
    col_encode := fun hencode => by cases hdir.symm.trans hencode
    encode_ftype := fun hencode => by cases hdir.symm.trans hencode
    closed_col := fun hclosed => by cases hact.symm.trans hclosed
    cur_decode := fun _ i hi => absurd hi (by simp)
    cur_encode := fun hencode => by cases hdir.symm.trans hencode }

theorem Inv.abortSession (hcol : s.slCol = 0) (opc v : Byte) (row : Word) :
    Inv ((Machine.raise opc .filter v 0 row s).setStatus ((s.status.setErr true).setSlActive false)) :=
  Inv.closeSession (h.raise opc v 0 row (by simp)) hcol

theorem Inv.storeCur {i : Nat} (hi : i < s.capacity) (x : Byte) : Inv (s.storeCur i x) := by
  have hstored : ∀ j, (s.cur.stored j).isSome = true → ((s.cur.store i x).stored j).isSome = true := fun j hj => by
    rw [Memory.stored_store]
    split
    · rfl
    · exact hj
  exact { h with
    cur_wf := Memory.wf_store h.cur_wf i x
    cur_range := fun cell hcell => by
      rcases Memory.mem_store hcell with rfl | hcell
      · exact hi
      · exact h.cur_range cell hcell
    cur_decode := fun hdir j hj => hstored j (h.cur_decode hdir j hj)
    cur_encode := fun hdir j hj => hstored j (h.cur_encode hdir j hj) }

/-- `SL_COL` moves on past a byte that has been written, inside the row. -/
theorem Inv.advance (hact : s.status.slActive = true) {i : Nat} (ht : pushTarget s = some i) (hi : i + 1 < s.rowlen)
    (hcur : (s.cur.stored i).isSome = true) : Inv (s.setSlCol (s.slCol + 1)) := by
  have hwritten : ∀ j, j < i + 1 → (s.cur.stored j).isSome = true := fun j hj => by
    rcases Nat.lt_succ_iff_lt_or_eq.1 hj with hj | rfl
    · exact h.cur_before_target ht hj
    · exact hcur
  have hcap := h.rowlen_le_capacity
  have hlt := h.capacity_lt
  have hnext : ∀ k, s.slCol.toNat = k → k ≤ i + 1 → (s.slCol + 1).toNat = k + 1 := fun k hk hki => by
    rw [BitVec.toNat_add, hk]
    exact Nat.mod_eq_of_lt (by simp; omega)
  have hdecode : s.status.dir = .decode → (s.slCol + 1).toNat = i + 2 := fun hdir =>
    hnext _ (slCol_of_target_decode hdir ht) le_rfl
  have hencode : s.status.dir = .encode → (s.slCol + 1).toNat = i + 1 := fun hdir =>
    hnext _ (slCol_of_target_encode hdir ht) (Nat.le_succ i)
  exact { h with
    col_decode := fun hdir => (hdecode hdir).trans_le hi
    col_encode := fun hdir => (hencode hdir).trans_lt hi
    closed_col := fun hclosed => by cases hact.symm.trans hclosed
    cur_decode := fun hdir j (hj : j + 1 < (s.slCol + 1).toNat) => hwritten j (by rw [hdecode hdir] at hj; omega)
    cur_encode := fun hdir j (hj : j < (s.slCol + 1).toNat) => hwritten j (by rwa [hencode hdir] at hj) }

theorem Inv.completeRow (hbpp : s.status.bpp ≠ .unset) : Inv (completeRow s.rowlen s) :=
  { h with
    before_session := fun hunset => absurd hunset hbpp
    col_decode := fun _ => Nat.zero_le _
    col_encode := fun _ => h.rowlen_pos hbpp
    rows := fun _ => rfl
    closed_col := fun _ => rfl
    prev_wf := State.wf_copiedRow h.prev_wf _
    prev_range := fun cell hcell => by
      rcases State.mem_copiedRow hcell with hlow | hcell
      · exact hlow.trans_le h.rowlen_le_capacity
      · exact h.prev_range cell hcell
    prev_written := fun _ i (hi : i < s.rowlen) => by
      rw [completeRow_prev, State.stored_copiedRow, if_pos hi]
      rfl
    cur_decode := fun _ _ hi => absurd hi (Nat.not_lt_zero _)
    cur_encode := fun _ _ hi => absurd hi (Nat.not_lt_zero _) }

/-- In an open session a push never stops, and keeps the invariant. -/
theorem Inv.pushByte (hact : s.status.slActive = true) (opc v : Byte) :
    ∃ t, (pushByte opc v s = .taken t ∨ pushByte opc v s = .failed t) ∧ Inv t := by
  have hcap := h.rowlen_le_capacity
  obtain ⟨ft, hdir, -, -, -, e⟩ | ⟨-, hcol, -, -, e⟩ | ⟨i, ht, hi, hne, e⟩ | ⟨i, ht, hi, -, e⟩ | ⟨i, ht, hi, -⟩ :=
    pushByte_cases opc v s
  · exact ⟨_, .inl e, h.takeFilterType hact hdir ft⟩
  · exact ⟨_, .inr e, h.abortSession hcol opc v s.slRow⟩
  · have hstored : ((s.storeCur i (pushedByte s i v)).cur.stored i).isSome = true := by
      rw [storeCur_cur, Memory.stored_store, if_pos rfl]
      rfl
    have hinside : i + 1 < s.rowlen := Nat.lt_of_le_of_ne (h.target_lt ht) (h.rowSize_eq ▸ hne)
    exact ⟨_, .inl e, (h.storeCur hi _).advance hact ht hinside hstored⟩
  · rw [h.rowSize_eq] at e
    exact ⟨_, .inl e, (h.storeCur hi _).completeRow (h.bpp_ne_unset hact)⟩
  · exact absurd (h.target_lt ht) (by omega)

theorem Inv.pushBytes (hact : s.status.slActive = true) (opc : Byte) (bs : List Byte) :
    ∃ t, (pushBytes opc bs s).result = .next t ∧ Inv t := by
  induction bs generalizing s with
  | nil => exact ⟨s, rfl, h⟩
  | cons v vs ih =>
    obtain ⟨u, htaken | hfailed, hu⟩ := h.pushByte hact opc v
    · rw [pushBytes_cons_of_taken htaken]
      exact ih hu (by rw [taken_fields htaken]; exact hact)
    · exact ⟨u, congrArg Push.result (pushBytes_cons_of_failed hfailed vs), hu⟩

/-! ### Commands -/

theorem Inv.effect {i : Instr} {t : State} (ht : Effect s i t) : Inv t := by
  cases ht with
  | unchanged => exact h
  | cleared => exact h.clearErr
  | reset => exact h.resetBlock
  | crc | result => exact h.of_registers rfl
  | compared b => exact h.setCrcMatch b
  | raised opc d0 d1 _ hcode => exact h.raise opc d0 d1 0 hcode
  | opened _ hlow hhigh => exact h.openSession _ _ hlow hhigh
  | closed _ hcol => exact h.closeSession hcol
  | @pushed _ bs _ _ _ hact hpush =>
    obtain ⟨u, hu, hinv⟩ := h.pushBytes hact i.opcode bs
    cases hu.symm.trans hpush
    exact hinv

theorem Inv.slReadw_next (hok : s.status.err = false) (n : Nat) : ∃ t, exec (.slReadw n) s = .next t := by
  by_cases hbad : s.status.hasRow = false ∨ s.outLen < s.arg.toNat + n
  · exact ⟨_, exec_slReadw_index hok hbad⟩
  · obtain ⟨hrow, hend⟩ := not_or.1 hbad
    have hend : s.arg.toNat + n ≤ s.outLen := Nat.not_lt.1 hend
    obtain ⟨bs, hbs, -⟩ := State.exists_outBytes (s := s) (i := s.arg.toNat) (n := n) fun k hk =>
      h.exists_outByte (by omega)
    exact ⟨_, exec_slReadw_of_outBytes hok (Bool.eq_true_of_not_eq_false hrow) hend hbs⟩

/-- No command stops the machine. -/
theorem Inv.exec_next (i : Instr) : ∃ t, exec i s = .next t := by
  cases hok : s.status.err with
  | true =>
    by_cases hi : i = .nop ∨ i = .clrerr ∨ i = .sreset
    · obtain rfl | rfl | rfl := hi <;> exact ⟨_, rfl⟩
    · simp only [not_or] at hi
      obtain ⟨hnop, hclrerr, hsreset⟩ := hi
      exact ⟨s, exec_of_err hok i hnop hclrerr hsreset⟩
  | false =>
    have hnever {i : Instr} :
        (∃ t, Machine.exec i s = .next t ∧ t.status.err = false) → ∃ t, Machine.exec i s = .next t :=
      fun ⟨t, ht, _⟩ => ⟨t, ht⟩
    cases i with
    | slReadw n => exact h.slReadw_next hok n
    | slBegin ct bd dir =>
      rw [exec_slBegin_of_ok hok]
      split_ifs <;> exact ⟨_, rfl⟩
    | slEnd =>
      rw [exec_slEnd_of_ok hok]
      split_ifs <;> exact ⟨_, rfl⟩
    | unfilt v =>
      rw [exec_unfilt_of_ok hok]
      split <;> exact ⟨_, rfl⟩
    | slPush v =>
      rw [exec_slPush_of_ok hok]
      split
      case isTrue => exact ⟨_, rfl⟩
      case isFalse hact =>
        obtain ⟨t, ht, -⟩ := h.pushBytes (Bool.eq_true_of_not_eq_false hact) 0x21 [v]
        exact ⟨t, by rwa [pushBytes_singleton] at ht⟩
    | slPushw n =>
      rw [exec_slPushw_of_ok hok]
      split
      case isTrue => exact ⟨_, rfl⟩
      case isFalse hact =>
        obtain ⟨t, ht, -⟩ := h.pushBytes (Bool.eq_true_of_not_eq_false hact) 0x22 (bytesOf n s.arg)
        exact ⟨t, ht⟩
    | _ => exact hnever (commandsWithoutFailureModesNeverRaise _ s hok (by simp))

theorem Inv.exec (i : Instr) : ∃ t, exec i s = .next t ∧ Inv t := by
  obtain ⟨t, ht⟩ := h.exec_next i
  exact ⟨t, ht, h.effect (exec_effect ht)⟩

/-! ### Steps -/

theorem Inv.execute (w : Word) : ∃ t, execute w s = .next t ∧ Inv t := by
  unfold Machine.execute
  split
  case h_1 i _ => exact h.exec i
  case h_2 =>
    unfold unlessErr
    split
    · exact ⟨s, rfl, h⟩
    · exact ⟨_, rfl, h.raise _ 0 0 0 (by simp)⟩

theorem Inv.busWrite (width : Nat) (off : BitVec 8) (data : Word) : ∃ t, busWrite width off data s = .next t ∧ Inv t := by
  unfold Machine.busWrite
  split
  case isFalse => exact ⟨s, rfl, h⟩
  case isTrue =>
    split
    case h_2 => exact ⟨s, rfl, h⟩
    case h_1 r _ =>
      cases r with
      | cmd => exact h.execute data
      | arg => exact ⟨_, rfl, h.of_registers rfl⟩
      | _ => exact ⟨s, rfl, h⟩

theorem Inv.deliver (e : BusEvent) : ∃ t, deliver e s = .next t ∧ Inv t := by
  cases e with
  | read width off =>
    unfold Machine.deliver
    dsimp only
    split <;> exact ⟨_, rfl, h.of_registers rfl⟩
  | write width off data =>
    unfold Machine.deliver
    dsimp only
    split
    · exact ⟨_, rfl, h.of_registers rfl⟩
    · obtain ⟨t, ht, hinv⟩ := h.busWrite width off data
      rw [ht]
      exact ⟨_, rfl, hinv.of_registers rfl⟩
  | resetLine asserted =>
    refine ⟨_, rfl, ?_⟩
    unfold driveReset
    split_ifs
    · exact h.of_registers rfl
    · exact h.resetBlock.of_registers rfl
    · exact h

theorem Inv.step : ∃ t, step s = .next t ∧ Inv t := by
  cases hinbox : s.inbox with
  | nil => exact ⟨s, step_idle hinbox, h⟩
  | cons e rest =>
    rw [step_event hinbox]
    exact (h.of_registers (t := s.setInbox rest) rfl).deliver e

end

/-- Settles O53, by `Inv.step`. -/
theorem everyStepKeepsTheInvariant : Obligations.EveryStepKeepsTheInvariant := by
  intro s t h hstep
  obtain ⟨u, hu, hinv⟩ := h.step
  cases hu.symm.trans hstep
  exact hinv

/-- Settles O54, by `Inv.step`. -/
theorem noStepStopsFromTheInvariant : Obligations.NoStepStopsFromTheInvariant := by
  intro s h
  obtain ⟨t, ht, -⟩ := h.step
  exact ⟨t, ht⟩

/-! ### Reachable states -/

theorem inv_of_reachable {s : State} (h : Reachable s) : Inv s := by
  induction h with
  | start lineMax hlow hhigh es => exact inv_reset hlow hhigh rfl
  | step _ hstep ih => exact everyStepKeepsTheInvariant _ _ ih hstep

theorem toBits_eq_zero_iff (p : Bpp) : p.toBits = 0 ↔ p = .unset := by cases p <;> decide

theorem toByte_le (ft : FilterType) : ft.toByte.toNat ≤ 4 := by cases ft <;> decide

/-- Settles O55: the items of the invariant, read from the words of `STATUS` and `ERRINFO`. -/
theorem reachableStatesMeetTheRegisterInvariants : Obligations.ReachableStatesMeetTheRegisterInvariants := by
  intro s hreach
  have h : Inv s := inv_of_reachable hreach
  obtain ⟨herr, -⟩ := flags_toWord s.status
  obtain ⟨-, hbpp, -, hftype, -⟩ := fields_toWord s.status
  have hcode : s.errInfo.toWord.extractLsb' 0 8 = s.errInfo.code.toByte := fieldLow_toWord s.errInfo
  rw [herr, hbpp, hftype, hcode, toBits_eq_zero_iff, code_toByte_eq_zero_iff]
  refine ⟨noStepStopsFromTheInvariant s h, h.err_iff, h.clear_record, Nat.le_of_lt_succ (errCode_toByte_lt _), ?bpp, ?unset,
    fun hbits => h.width_range (mt (toBits_eq_zero_iff _).2 hbits), ?encode, h.col_decode, toByte_le _, h.rows⟩
  case bpp => cases s.status.bpp <;> decide
  case unset =>
    intro hunset
    obtain ⟨hwidth, hact, hrow, -⟩ := h.before_session hunset
    exact ⟨hwidth, hact, hrow⟩
  case encode =>
    intro hdir
    rw [h.encode_bpp hdir, h.encode_ftype hdir]
    exact ⟨rfl, h.col_encode hdir, rfl⟩

end Sys2Proof

/-! # What a push does not read, and pushes in groups (spec/43_scanline.md R115; spec/30_encoding.md R69) -/

namespace Sys2Proof

open Sys2Proof.Machine

/-! ### A push, by its target -/

theorem pushByte_of_no_target {s : State} (ht : pushTarget s = none) (opc v : Byte) :
    pushByte opc v s = pushFilterByte opc v s := by
  cases hdir : s.status.dir with
  | encode => simp [pushTarget, hdir] at ht
  | decode =>
    have hcol : s.slCol = 0 := by simpa [pushTarget, hdir] using ht
    exact pushByte_filterType hdir hcol opc v

theorem pushByte_of_target {s : State} {i : Nat} (ht : pushTarget s = some i) (opc v : Byte) :
    pushByte opc v s =
      if s.capacity ≤ i then .stopped .outsideLineBuffer
      else if i + 1 = rowSize s then .taken (completeRow (rowSize s) (s.storeCur i (pushedByte s i v)))
      else .taken ((s.storeCur i (pushedByte s i v)).setSlCol (s.slCol + 1)) := by
  obtain ⟨_, -, -, -, hn, -⟩ | ⟨-, -, -, hn, -⟩ | ⟨j, hj, hi, hne, e⟩ | ⟨j, hj, hi, hlast, e⟩ | ⟨j, hj, hi, e⟩ :=
    pushByte_cases opc v s
  · cases hn.symm.trans ht
  · cases hn.symm.trans ht
  · cases hj.symm.trans ht
    rw [if_neg (Nat.not_le.2 hi), if_neg hne, e]
  · cases hj.symm.trans ht
    rw [if_neg (Nat.not_le.2 hi), if_pos hlast, e]
  · cases hj.symm.trans ht
    rw [if_pos hi, e]

/-! ### Pushes with another `ARG`, other answers and other unspecified bytes -/

/-- `s` with another `ARG`, other answers given, and other bytes where no byte of a line buffer has been written. -/
def withUnread (arg : Word) (answers : List Response) (k : Nat) (s : State) : State :=
  { s with arg := arg, responses := answers, resets := k }

/-- What a push does to the state it leaves, taken or not. -/
def pushMap (f : State → State) : Push → Push
  | .taken t => .taken (f t)
  | .failed t => .failed (f t)
  | .stopped r => .stopped r

section
variable {s : State} (arg : Word) (answers : List Response) (k : Nat)

theorem withUnread_lineByte_of_written {b : LineBuf} {i : Nat} (h : ((s.buffer b).stored i).isSome = true) :
    (withUnread arg answers k s).lineByte b i = s.lineByte b i := by
  obtain ⟨v, hv⟩ := Option.isSome_iff_exists.1 h
  have hv' : ((withUnread arg answers k s).buffer b).stored i = some v := by cases b <;> exact hv
  rw [State.lineByte_stored hv, State.lineByte_stored hv']

theorem withUnread_completeRow {len : Nat}
    (h : ∀ i, i < len → (withUnread arg answers k s).lineByte .cur i = s.lineByte .cur i) :
    completeRow len (withUnread arg answers k s) = withUnread arg answers k (completeRow len s) := by
  have hcopy : (withUnread arg answers k s).copiedRow len = s.copiedRow len := by
    unfold State.copiedRow
    congr 1
    exact List.map_congr_left fun i hi => by rw [h i (List.mem_range.1 hi)]
  rw [completeRow, hcopy]
  rfl

/-- A push commutes with the change when it stores the same byte, and the row it completes reads the same. -/
theorem pushByte_withUnread {opc v : Byte}
    (hbyte : ∀ i, pushTarget s = some i → pushedByte (withUnread arg answers k s) i v = pushedByte s i v)
    (hcur : ∀ i j, pushTarget s = some i → i + 1 = rowSize s → j < i →
      (withUnread arg answers k s).lineByte .cur j = s.lineByte .cur j) :
    pushByte opc v (withUnread arg answers k s) = pushMap (withUnread arg answers k) (pushByte opc v s) := by
  have htarget : pushTarget (withUnread arg answers k s) = pushTarget s := rfl
  cases ht : pushTarget s with
  | none =>
    rw [pushByte_of_no_target ht, pushByte_of_no_target (htarget.trans ht), pushFilterByte, pushFilterByte]
    cases FilterType.ofByte v <;> rfl
  | some i =>
    rw [pushByte_of_target ht, pushByte_of_target (htarget.trans ht), hbyte i ht]
    change (if s.capacity ≤ i then _ else if i + 1 = rowSize s then _ else _) = _
    split_ifs with hcap hlast
    · rfl
    · refine congrArg Push.taken (withUnread_completeRow (s := s.storeCur i (pushedByte s i v)) arg answers k fun j hj => ?_)
      rw [State.storeCur_lineByte_cur]
      refine (State.storeCur_lineByte_cur (withUnread arg answers k s) i j _).trans ?_
      split_ifs with hij
      · rfl
      · exact hcur i j ht hlast (by change j < rowSize s at hj; omega)
    · rfl

end

/-! ### `SL.PUSHW` and single pushes (R115) -/

theorem commandWords_slPushw : CommandWords 0x22 0x00FFFFFC (fun w => .slPushw (fieldCount w)) :=
  commandWords_of_row (r := ⟨"SL.PUSHW", 0x22000000, 0xFFFFFFFC, fun w => .slPushw (fieldCount w)⟩)
    (by simp [opcodeMap]) rfl rfl rfl (by simp)

/-- `t` with a recorded error named by the opcode of `SL.PUSHW`. -/
def namedByPushw (t : State) : State :=
  if t.status.err = true then { t with errInfo := { t.errInfo with opc := 0x22 } } else t

theorem execAll_slPush_of_err {s : State} (herr : s.status.err = true) (bs : List Byte) :
    execAll (bs.map .slPush) s = .next s := by
  induction bs with
  | nil => rfl
  | cons v vs ih =>
    rw [List.map_cons, execAll, exec_of_err herr (.slPush v) nofun nofun nofun]
    exact ih

theorem execAll_slPush_cons {s : State} (hok : s.status.err = false) (hact : s.status.slActive = true) (v : Byte)
    (vs : List Byte) {u : State} (h : (pushByte 0x21 v s).result = .next u) :
    execAll ((v :: vs).map .slPush) s = execAll (vs.map .slPush) u := by
  rw [List.map_cons, execAll, exec_slPush_result hok hact, h]

/-- Single pushes, and the same bytes pushed by `SL.PUSHW`, from a state with the invariant. -/
theorem Inv.pushw_eq_pushes {s : State} (h : Inv s) (hok : s.status.err = false) (hact : s.status.slActive = true)
    (bs : List Byte) :
    ∃ t, execAll (bs.map .slPush) s = .next t ∧ (Machine.pushBytes 0x22 bs s).result = .next (namedByPushw t) := by
  induction bs generalizing s with
  | nil => exact ⟨s, rfl, by rw [namedByPushw, hok]; rfl⟩
  | cons v vs ih =>
    obtain ⟨u, htaken | hfailed, hu⟩ := h.pushByte hact 0x21 v
    · obtain ⟨t, ht, hpushw⟩ := ih hu (by rw [taken_fields htaken]; exact hok) (by rw [taken_fields htaken]; exact hact)
      refine ⟨t, ?_, ?_⟩
      · rw [execAll_slPush_cons hok hact v vs (u := u) (by rw [htaken]; rfl), ht]
      · rw [pushBytes_cons_of_taken (pushByte_taken_opcode htaken 0x22), hpushw]
    · have herr : u.status.err = true := by
        obtain ⟨-, -, -, rfl⟩ := failed_fields hfailed
        rfl
      refine ⟨u, ?_, ?_⟩
      · rw [execAll_slPush_cons hok hact v vs (u := u) (by rw [hfailed]; rfl), execAll_slPush_of_err herr]
      · obtain ⟨t, ht, -⟩ | ⟨t, ht, ht'⟩ | ⟨f, hf, -⟩ := pushByte_opcode 0x21 0x22 v s
        · cases ht.symm.trans hfailed
        · cases ht.symm.trans hfailed
          rw [pushBytes_cons_of_failed ht', namedByPushw, if_pos herr]
          rfl
        · cases hf.symm.trans hfailed

/-- Settles O38, by `Inv.pushw_eq_pushes` on the bytes of `ARG`. -/
theorem slPushwEqualsPushesUpToTheFirstError : Obligations.SlPushwEqualsPushesUpToTheFirstError := by
  refine ⟨commandWords_slPushw, fun s n hok hact => ?_, fun s n hinv hok hact _ _ => ?_⟩
  · rw [exec_slPushw_of_ok hok, if_pos hact]
    rfl
  · obtain ⟨t, ht, hpushw⟩ := hinv.pushw_eq_pushes hok hact (bytesOf n s.arg)
    rw [bytesOf, List.map_map] at ht
    exact ⟨t, ht, by rw [exec_slPushw_result hok hact, hpushw, namedByPushw]⟩

/-! ### `sl.bytes` (R69) -/

theorem pushBytes_append_taken {opc : Byte} {bs cs : List Byte} {s t : State} (h : pushBytes opc (bs ++ cs) s = .taken t) :
    ∃ u, pushBytes opc bs s = .taken u ∧ pushBytes opc cs u = .taken t := by
  induction bs generalizing s with
  | nil => exact ⟨s, rfl, h⟩
  | cons v vs ih =>
    obtain ⟨w, hw, hrest⟩ := taken_of_pushBytes_cons h
    obtain ⟨u, hu, hcs⟩ := ih hrest
    exact ⟨u, (pushBytes_cons_of_taken hw vs).trans hu, hcs⟩

/-- Single pushes that end with no error recorded took every byte, and so does any other push command. -/
theorem pushBytes_of_execAll {s t : State} (hok : s.status.err = false) (hact : s.status.slActive = true) {bs : List Byte}
    (h : execAll (bs.map .slPush) s = .next t) (ht : t.status.err = false) (opc : Byte) : pushBytes opc bs s = .taken t := by
  induction bs generalizing s with
  | nil =>
    cases h
    rfl
  | cons v vs ih =>
    cases hpush : pushByte 0x21 v s with
    | taken u =>
      rw [execAll_slPush_cons hok hact v vs (u := u) (by rw [hpush]; rfl)] at h
      rw [pushBytes_cons_of_taken (pushByte_taken_opcode hpush opc)]
      exact ih (by rw [taken_fields hpush]; exact hok) (by rw [taken_fields hpush]; exact hact) h
    | failed u =>
      have herr : u.status.err = true := by
        obtain ⟨-, -, -, rfl⟩ := failed_fields hpush
        rfl
      rw [execAll_slPush_cons hok hact v vs (u := u) (by rw [hpush]; rfl), execAll_slPush_of_err herr] at h
      cases h
      cases herr.symm.trans ht
    | stopped f =>
      rw [List.map_cons, execAll, exec_slPush_result hok hact, hpush] at h
      cases h

/-- Pushes do not read `ARG` or the answers given. -/
theorem pushBytes_withUnread_taken {opc : Byte} {bs : List Byte} {s t : State} (arg : Word) (answers : List Response)
    (h : pushBytes opc bs s = .taken t) :
    pushBytes opc bs (withUnread arg answers s.resets s) = .taken (withUnread arg answers s.resets t) := by
  induction bs generalizing s with
  | nil =>
    cases h
    rfl
  | cons v vs ih =>
    obtain ⟨u, hu, hrest⟩ := taken_of_pushBytes_cons h
    have hbytes : ∀ b i, (withUnread arg answers s.resets s).lineByte b i = s.lineByte b i :=
      State.lineByte_congr rfl rfl rfl
    have hpush : pushByte opc v (withUnread arg answers s.resets s) = .taken (withUnread arg answers s.resets u) := by
      rw [pushByte_withUnread arg answers s.resets (fun _ _ => rfl) (fun _ j _ _ _ => hbytes .cur j), hu, pushMap]
    have hresets : u.resets = s.resets := by rw [taken_fields hu]
    rw [pushBytes_cons_of_taken hpush, ← hresets]
    exact ih hrest

/-- `SL.PUSHW` of a group of bytes packed in `ARG` pushes the group. -/
theorem exec_slPushw_group {s u : State} (hok : s.status.err = false) (hact : s.status.slActive = true) {g : List Byte}
    (hg : g.length ≤ 4) (h : pushBytes 0x22 g s = .taken u) (answers : List Response) :
    exec (.slPushw g.length) (withUnread (packBytes g) answers s.resets s) =
      .next (withUnread (packBytes g) answers s.resets u) := by
  rw [exec_slPushw_result (s := withUnread (packBytes g) answers s.resets s) hok hact,
    show (withUnread (packBytes g) answers s.resets s).arg = packBytes g from rfl, bytesOf_packBytes hg,
    pushBytes_withUnread_taken _ _ h, Push.result]

/-- The lines of the groups of bytes push them all; `ARG` and the answers are what the lines wrote. -/
theorem deliverAll_slBytes {s t : State} (hrun : s.inReset = false) (hok : s.status.err = false)
    (hact : s.status.slActive = true) {gs : List (List Byte)} (hgs : ∀ g ∈ gs, 1 ≤ g.length ∧ g.length ≤ 4)
    (h : pushBytes 0x22 gs.flatten s = .taken t) (arg : Word) (answers : List Response) :
    ∃ arg' answers', deliverAll (asmEvents (gs.flatMap fun g => [.arg (packBytes g), .cmd (.slPushw g.length)]))
      (withUnread arg answers s.resets s) = .next (withUnread arg' answers' s.resets t) := by
  induction gs generalizing s arg answers with
  | nil =>
    cases h
    exact ⟨arg, answers, rfl⟩
  | cons g gs ih =>
    obtain ⟨hg, hrest⟩ := List.forall_mem_cons.1 hgs
    obtain ⟨u, hu, hpush⟩ := pushBytes_append_taken h
    have hfields : u.inReset = s.inReset ∧ u.resets = s.resets := by
      have hkeeps : PushKeeps s u := pushBytes_keeps (by rw [hu]; rfl)
      rw [hkeeps]
      exact ⟨rfl, rfl⟩
    have hstatus := pushBytes_taken_status hu
    obtain ⟨arg', answers', hdone⟩ := ih (hfields.1.trans hrun) (by rw [hstatus]; exact hok) (by rw [hstatus]; exact hact)
      hrest hpush (packBytes g) (.writeDone .okay :: .writeDone .okay :: answers)
    refine ⟨arg', answers', ?_⟩
    rw [List.flatMap_cons, asmEvents, List.map_append]
    refine (deliverAll_append (deliverAll_arg_cmd (s := withUnread arg answers s.resets s) (i := .slPushw g.length) hrun
      (wellFormedCount_of_range hg) (exec_slPushw_group hok hact hg.2 hu _))).trans ?_
    rw [hfields.2] at hdone
    exact hdone

/-- Settles O27: the groups join to the bytes, and pushes do not read `ARG` or the answers. -/
theorem slBytesPushesEveryByte : Obligations.SlBytesPushesEveryByte := by
  intro s t bs hrun hok hact h ht
  have hpush : pushBytes 0x22 bs s = .taken t := pushBytes_of_execAll hok hact h ht 0x22
  rw [← flatten_byteGroups bs] at hpush
  obtain ⟨arg, answers, hdone⟩ :=
    deliverAll_slBytes hrun hok hact (fun g => length_of_mem_byteGroups) hpush s.arg s.responses
  have hresets : t.resets = s.resets := by
    have hkeeps : PushKeeps s t := pushBytes_keeps (by rw [hpush]; rfl)
    rw [hkeeps]
  rw [← hresets] at hdone
  refine ⟨withUnread arg answers t.resets t, ?_, rfl⟩
  rw [← hdone, hresets]
  rfl

end Sys2Proof

/-! # A whole row pushed, and decode after encode (spec/43_scanline.md R104 to R121) -/

namespace Sys2Proof

open Sys2Proof.Machine

/-! ### A row that is open -/

/-- An open session whose rows have at least one byte and fit the line buffers; in encode the filter type is 0 (R34 item 6). -/
structure RowOpen (s : State) : Prop where
  ok : s.status.err = false
  act : s.status.slActive = true
  size : rowSize s = s.rowlen
  pos : 0 < s.rowlen
  fits : s.rowlen ≤ s.capacity
  small : s.capacity < 2 ^ 32
  ftype : s.status.dir = .encode → s.status.ftype = .none

theorem Inv.rowOpen {s : State} (h : Inv s) (hok : s.status.err = false) (hact : s.status.slActive = true) : RowOpen s where
  ok := hok
  act := hact
  size := h.rowSize_eq
  pos := h.rowlen_pos (h.bpp_ne_unset hact)
  fits := h.rowlen_le_capacity
  small := h.capacity_lt
  ftype := h.encode_ftype

/-- What completing a row leaves, but for the bytes of the line buffers. -/
def RowDone (s t : State) : Prop :=
  t = { s with
    status := { s.status with hasRow := true }
    slRow := s.slRow + 1
    slCol := 0
    prev := t.prev
    cur := t.cur }

theorem toNat_add_one {w : Word} {n : Nat} (h : w.toNat = n) (hn : n + 1 < 2 ^ 32) : (w + 1).toNat = n + 1 := by
  rw [BitVec.toNat_add, h]
  exact Nat.mod_eq_of_lt hn

theorem pushTarget_setSlCol {s : State} {i : Nat} (ht : pushTarget s = some i) (hi : i + 2 < 2 ^ 32) :
    pushTarget (s.setSlCol (s.slCol + 1)) = some (i + 1) := by
  cases hdir : s.status.dir with
  | decode =>
    have hcol : (s.slCol + 1).toNat = i + 2 := toNat_add_one (slCol_of_target_decode hdir ht) hi
    have hne : s.slCol + 1 ≠ 0 := fun h => by rw [(word_eq_zero_iff _).1 h] at hcol; cases hcol
    simp only [pushTarget, State.setSlCol_status, State.setSlCol_slCol, hdir, if_neg hne, hcol]
    rfl
  | encode =>
    have hcol : (s.slCol + 1).toNat = i + 1 := toNat_add_one (slCol_of_target_encode hdir ht) (by omega)
    simp only [pushTarget, State.setSlCol_status, State.setSlCol_slCol, hdir, hcol]

theorem length_rowBytes (s : State) (len : Nat) : (rowBytes s len).length = len := by
  rw [rowBytes, List.length_map, List.length_range]

theorem getElem_rowBytes (s : State) (len i : Nat) (hi : i < (rowBytes s len).length) :
    (rowBytes s len)[i] = s.lineByte .prev i := by
  simp only [rowBytes, List.getElem_map, List.getElem_range]

theorem getD_rowBytes (s : State) {len i : Nat} (hi : i < len) : (rowBytes s len).getD i 0 = s.lineByte .prev i := by
  rw [List.getD_eq_getElem _ _ (by rwa [length_rowBytes]), getElem_rowBytes]

/-! ### One sample of the row function (R104) -/

/-- With filter type 0 the row function is the identity. -/
theorem reconRow_none (bpp : Nat) (above : Option (List Byte)) (done xs : List Byte) :
    reconRow .none bpp above done xs = done ++ xs := by
  induction xs generalizing done with
  | nil => rw [reconRow, List.append_nil]
  | cons x xs ih =>
    cases above <;> rw [reconRow, recon_none, ih, List.append_assoc, List.singleton_append]

theorem pushedByte_eq_reconstructed {s : State} (h : s.status.dir = .encode → s.status.ftype = .none) (i : Nat) (v : Byte) :
    pushedByte s i v = s.reconstructed i v := by
  cases hdir : s.status.dir with
  | decode => rw [pushedByte, hdir]
  | encode => rw [State.reconstructed, h hdir, recon_none, pushedByte, hdir]

section
variable {s : State} {done : List Byte} (hcur : ∀ j (hj : j < done.length), s.lineByte .cur j = done[j])
  (hpos : 0 < s.status.bpp.toNat) (hlen : done.length < s.rowlen)
include hcur hpos

theorem neighbourA_eq_getD : s.neighbourA done.length =
    if s.status.bpp.toNat ≤ done.length then done.getD (done.length - s.status.bpp.toNat) 0 else 0 := by
  unfold State.neighbourA
  split
  case isTrue h =>
    have hlt : done.length - s.status.bpp.toNat < done.length := by omega
    rw [hcur _ hlt, List.getD_eq_getElem _ _ hlt]
  case isFalse => rfl

include hlen

/-- The row function appends the byte the neighbour rule gives (R33). -/
theorem reconRow_cons (x : Byte) (xs : List Byte) :
    reconRow s.status.ftype s.status.bpp.toNat (rowAbove s) done (x :: xs) =
      reconRow s.status.ftype s.status.bpp.toNat (rowAbove s) (done ++ [s.reconstructed done.length x]) xs := by
  have habove : ∀ j, j ≤ done.length → (rowBytes s s.rowlen).getD j 0 = s.lineByte .prev j := fun j hj =>
    getD_rowBytes s (hj.trans_lt hlen)
  rw [State.reconstructed, neighbourA_eq_getD hcur hpos, State.neighbourB, State.neighbourC]
  cases hrow : s.status.hasRow with
  | false =>
    have hnone : rowAbove s = none := by rw [rowAbove, hrow]; rfl
    rw [hnone, reconRow]
    simp
  | true =>
    have hsome : rowAbove s = some (rowBytes s s.rowlen) := by rw [rowAbove, hrow]; rfl
    rw [hsome, reconRow, habove _ le_rfl, habove _ (Nat.sub_le _ _)]
    simp

end

/-! ### The row pushed byte by byte -/

theorem getElem_append_singleton {f : Nat → Byte} {done : List Byte} {y : Byte}
    (hdone : ∀ j (hj : j < done.length), f j = done[j]) (hy : f done.length = y) :
    ∀ j (hj : j < (done ++ [y]).length), f j = (done ++ [y])[j] := by
  intro j hj
  rw [List.getElem_append]
  split
  case isTrue hlt => exact hdone j hlt
  case isFalse hge =>
    have hlast : j = done.length := by rw [List.length_append, List.length_singleton] at hj; omega
    subst hlast
    simpa using hy

theorem rowBytes_eq {s : State} {row : List Byte} (h : ∀ j (hj : j < row.length), s.lineByte .prev j = row[j]) :
    rowBytes s row.length = row :=
  List.ext_getElem (length_rowBytes s _) fun j hj hj' => (getElem_rowBytes s _ j hj).trans (h j hj')

/-- A byte of the row is stored, and completes the row or goes on to the next target. -/
theorem RowOpen.push {s : State} (h : RowOpen s) {i : Nat} (ht : pushTarget s = some i) (hi : i < s.rowlen) (v : Byte) :
    exec (.slPush v) s = .next
      (if i + 1 = s.rowlen then completeRow s.rowlen (s.storeCur i (s.reconstructed i v))
      else (s.storeCur i (s.reconstructed i v)).setSlCol (s.slCol + 1)) := by
  rw [exec_slPush_result h.ok h.act, pushByte_of_target ht, pushedByte_eq_reconstructed h.ftype, h.size,
    if_neg (Nat.not_le.2 (hi.trans_le h.fits))]
  split <;> rfl

theorem RowOpen.pushRow {s : State} (h : RowOpen s) {done xs : List Byte} (hxs : xs ≠ [])
    (ht : pushTarget s = some done.length) (hcur : ∀ j (hj : j < done.length), s.lineByte .cur j = done[j])
    (hlen : done.length + xs.length = s.rowlen) :
    ∃ t, execAll (xs.map .slPush) s = .next t ∧
      rowBytes t s.rowlen = reconRow s.status.ftype s.status.bpp.toNat (rowAbove s) done xs ∧ RowDone s t := by
  induction xs generalizing s done with
  | nil => exact absurd rfl hxs
  | cons x xs ih =>
    have hi : done.length < s.rowlen := by rw [← hlen, List.length_cons]; omega
    have hbpp : 0 < s.status.bpp.toNat := Nat.pos_of_mul_pos_left h.pos
    have hstored : ∀ j (hj : j < (done ++ [s.reconstructed done.length x]).length),
        (s.storeCur done.length (s.reconstructed done.length x)).lineByte .cur j =
          (done ++ [s.reconstructed done.length x])[j] :=
      getElem_append_singleton
        (fun j hj => by rw [State.storeCur_lineByte_cur, if_neg (by omega), hcur j hj])
        (by rw [State.storeCur_lineByte_cur, if_pos rfl])
    rw [List.map_cons, execAll, h.push ht hi, reconRow_cons hcur hbpp hi]
    cases xs with
    | nil =>
      have hlast : (done ++ [s.reconstructed done.length x]).length = s.rowlen := by simpa using hlen
      rw [if_pos (by simpa using hlen)]
      refine ⟨_, rfl, ?_, rfl⟩
      rw [reconRow, ← hlast]
      refine rowBytes_eq fun j hj => ?_
      rw [completeRow_lineByte_prev, if_pos hj, hstored j hj]
    | cons y ys =>
      have hmore : done.length + 1 ≠ s.rowlen := by simp only [List.length_cons] at hlen; omega
      have hfits := h.fits
      have hsmall := h.small
      rw [if_neg hmore]
      exact ih (s := (s.storeCur done.length (s.reconstructed done.length x)).setSlCol (s.slCol + 1)) { h with }
        (List.cons_ne_nil y ys) (by
          rw [List.length_append, List.length_singleton]
          exact pushTarget_setSlCol (s := s.storeCur done.length (s.reconstructed done.length x)) ht (by omega))
        hstored (by
          rw [List.length_append, List.length_singleton, Nat.add_assoc, Nat.add_comm 1]
          exact hlen)

/-- A decode row: its filter-type byte, then its samples. -/
theorem RowOpen.pushDecodeRow {s : State} (h : RowOpen s) (hdir : s.status.dir = .decode) (hcol : s.slCol = 0)
    (ft : FilterType) {xs : List Byte} (hlen : xs.length = s.rowlen) :
    ∃ t, execAll (.slPush ft.toByte :: xs.map .slPush) s = .next t ∧
      rowBytes t s.rowlen = reconRow ft s.status.bpp.toNat (rowAbove s) [] xs ∧
      RowDone { s with status := { s.status with ftype := ft }, slCol := 1 } t := by
  have htaken := (slPushTakesTheFilterTypeByte s ft.toByte h.ok h.act hdir hcol).1 ft rfl
  have hopen : RowOpen { s with status := { s.status with ftype := ft }, slCol := 1 } :=
    { h with ftype := fun hencode => by cases hdir.symm.trans hencode }
  have hxs : xs ≠ [] := List.ne_nil_of_length_pos (hlen ▸ h.pos)
  rw [execAll, htaken]
  exact hopen.pushRow (done := []) hxs (by simp [pushTarget, hdir]) (fun j hj => absurd hj (Nat.not_lt_zero j))
    (by rw [List.length_nil, Nat.zero_add]; exact hlen)

/-! ### The output row of a completed row (R112, R118) -/

theorem outBytes_eq_some {s : State} {bs : List Byte} {i : Nat}
    (h : ∀ k (hk : k < bs.length), s.outByte (i + k) = some bs[k]) : s.outBytes i bs.length = some bs := by
  induction bs generalizing i with
  | nil => rfl
  | cons b bs ih =>
    have hb : s.outByte i = some b := h 0 (Nat.succ_pos _)
    have hbs : s.outBytes (i + 1) bs.length = some bs := ih fun k hk => by
      have := h (k + 1) (Nat.succ_lt_succ hk)
      rwa [List.getElem_cons_succ, ← Nat.add_assoc, Nat.add_right_comm] at this
    rw [List.length_cons, State.outBytes]
    simp only [hb, hbs]

theorem length_expandRgb : ∀ (w : Nat) (row : List Byte), row.length = w * 3 → (expandRgb row).length = 4 * w
  | 0, [], _ => rfl
  | w + 1, r :: g :: b :: rest, h => by
    have hrest : rest.length = w * 3 := by simp only [List.length_cons] at h; omega
    simp only [expandRgb, List.length_cons, length_expandRgb w rest hrest]
    omega
  | _ + 1, [], h | _ + 1, [_], h | _ + 1, [_, _], h =>
    absurd h (by simp only [List.length_cons, List.length_nil]; omega)

/-- Byte `k` of pixel `x` of the expanded row. -/
theorem getElem?_expandRgb : ∀ (row : List Byte) (x k : Nat), k < 4 → x * 3 + 3 ≤ row.length →
    (expandRgb row)[4 * x + k]? = if k < 3 then row[x * 3 + k]? else some 255
  | r :: g :: b :: rest, 0, k, hk, _ => by
    rw [expandRgb]
    interval_cases k <;> rfl
  | r :: g :: b :: rest, x + 1, k, hk, h => by
    have ih := getElem?_expandRgb rest x k hk (by simp only [List.length_cons] at h; omega)
    rw [expandRgb, show 4 * (x + 1) + k = 4 * x + k + 4 by omega, show (x + 1) * 3 + k = x * 3 + k + 3 by omega]
    simpa using ih
  | [], _, _, _, h | [_], _, _, _, h | [_, _], _, _, _, h => by simp at h

section
variable {s : State} (hcap : s.rowlen ≤ s.capacity)
include hcap

theorem outBytes_rgb (hdir : s.status.dir = .decode) (hbpp : s.status.bpp = .rgb) :
    s.outBytes 0 s.outLen = some (expandRgb (rowBytes s s.rowlen)) := by
  have hthree : s.status.bpp.toNat = 3 := by rw [hbpp]; rfl
  have hsize : s.rowlen = s.slWidth.toNat * 3 := by rw [State.rowlen, hthree]
  have hlen : (rowBytes s s.rowlen).length = s.slWidth.toNat * 3 := (length_rowBytes s _).trans hsize
  rw [outLen_decode hdir, ← length_expandRgb _ _ hlen]
  refine outBytes_eq_some fun k hk => ?_
  rw [← List.getElem?_eq_getElem hk, Nat.zero_add]
  rw [length_expandRgb _ _ hlen] at hk
  obtain ⟨x, j, hj, rfl⟩ : ∃ x j, j < 4 ∧ k = 4 * x + j := ⟨k / 4, k % 4, Nat.mod_lt _ (by decide), by omega⟩
  rw [getElem?_expandRgb _ x j hj (by omega)]
  split
  case isTrue hlow =>
    have hin : x * 3 + j < (rowBytes s s.rowlen).length := by omega
    rw [outByte_pixel hcap hdir (by omega) (by rwa [hthree]), List.getElem?_eq_getElem hin, getElem_rowBytes, hthree]
  case isFalse hhigh =>
    obtain rfl : j = 3 := by omega
    exact outByte_alpha hdir hbpp x

theorem outBytes_rgba (hdir : s.status.dir = .decode) (hbpp : s.status.bpp = .rgba) :
    s.outBytes 0 s.outLen = some (rowBytes s s.rowlen) := by
  have hfour : s.status.bpp.toNat = 4 := by rw [hbpp]; rfl
  have hsize : s.rowlen = 4 * s.slWidth.toNat := by rw [State.rowlen, hfour, Nat.mul_comm]
  have hlen : (rowBytes s s.rowlen).length = 4 * s.slWidth.toNat := (length_rowBytes s _).trans hsize
  rw [outLen_decode hdir, ← hlen]
  refine outBytes_eq_some fun k hk => ?_
  rw [hlen] at hk
  obtain ⟨x, j, hj, rfl⟩ : ∃ x j, j < 4 ∧ k = 4 * x + j := ⟨k / 4, k % 4, Nat.mod_lt _ (by decide), by omega⟩
  rw [Nat.zero_add, outByte_pixel hcap hdir (by omega) (by rwa [hfour]), getElem_rowBytes, hfour, Nat.mul_comm x 4]

theorem outBytes_encode (hdir : s.status.dir = .encode) (hsize : s.rowlen = 4 * s.slWidth.toNat) :
    s.outBytes 0 s.outLen = some (0 :: rowBytes s s.rowlen) := by
  have hlen : (0 :: rowBytes s s.rowlen).length = 1 + 4 * s.slWidth.toNat := by
    rw [List.length_cons, length_rowBytes, hsize, Nat.add_comm]
  rw [outLen_encode hdir, ← hlen]
  refine outBytes_eq_some fun k hk => ?_
  rw [Nat.zero_add]
  cases k with
  | zero => exact outByte_encode_zero hdir
  | succ k =>
    rw [List.getElem_cons_succ, getElem_rowBytes, Nat.add_comm k 1, outByte_encode hcap hdir hsize (by omega)]

end

/-- Settles O57: the row by `RowOpen.pushDecodeRow`, its expansion by the two pixel sizes. -/
theorem pushingARowReconstructsIt : Obligations.PushingARowReconstructsIt := by
  intro s ft xs hinv hok hact hdir hcol hlen
  have hopen : RowOpen s := hinv.rowOpen hok hact
  obtain ⟨t, ht, hrow, hdone⟩ := hopen.pushDecodeRow hdir hcol ft hlen
  have hsize : t.rowlen = s.rowlen := by rw [hdone]; rfl
  have hcap : t.rowlen ≤ t.capacity := by
    rw [hdone]
    exact hopen.fits
  have hdir' : t.status.dir = .decode := by rw [hdone]; exact hdir
  have hbpp : t.status.bpp = s.status.bpp := by rw [hdone]
  refine ⟨t, ht, hrow, by rw [hdone], by rw [hdone], by rw [hdone], ?_⟩
  rw [← hsize]
  cases hp : s.status.bpp with
  | unset => exact absurd hp (hinv.bpp_ne_unset hact)
  | rgb => exact outBytes_rgb hcap hdir' (hbpp.trans hp)
  | rgba => exact outBytes_rgba hcap hdir' (hbpp.trans hp)

/-! ### Decode after encode (R121) -/

/-- `s` with a session of RGBA rows of `ARG` pixels just opened. -/
def rgbaOpened (dir : Direction) (s : State) : State :=
  (((s.setStatus (s.status.openSession dir .rgba)).setSlWidth s.arg).setSlRow 0).setSlCol 0

section
variable {s : State} (hok : s.status.err = false) (hlow : 1 ≤ s.arg.toNat) (hhigh : s.arg.toNat ≤ s.lineMax)
include hok hlow hhigh

theorem exec_slBegin_rgba (dir : Direction) : exec (.slBegin 6 8 dir) s = .next (rgbaOpened dir s) := by
  rw [exec_slBegin_opens hok (by cases dir <;> rfl) hlow hhigh]
  cases dir <;> rfl

theorem rowOpen_rgbaOpened (hmax : s.lineMax ≤ 2 ^ 28) (dir : Direction) : RowOpen (rgbaOpened dir s) where
  ok := hok
  act := rfl
  size := by
    cases dir with
    | decode => rfl
    | encode => exact Nat.mul_comm 4 _
  pos := Nat.mul_pos hlow (show 0 < Bpp.rgba.toNat by decide)
  fits := by
    change s.arg.toNat * 4 ≤ 4 * s.lineMax
    omega
  small := by
    change 4 * s.lineMax < 2 ^ 32
    omega
  ftype := fun _ => rfl

/-- An encode session fed a raster row. -/
theorem encodeRow (hmax : s.lineMax ≤ 2 ^ 28) {r : List Byte} (hr : r.length = 4 * s.arg.toNat) :
    ∃ t, execAll (.slBegin 6 8 .encode :: r.map .slPush) s = .next t ∧ rowBytes t t.rowlen = r ∧
      RowDone (rgbaOpened .encode s) t := by
  have hopen := rowOpen_rgbaOpened hok hlow hhigh hmax .encode
  have hlen : r.length = (rgbaOpened .encode s).rowlen := hr.trans (Nat.mul_comm 4 _)
  obtain ⟨t, ht, hrow, hdone⟩ := hopen.pushRow (done := []) (List.ne_nil_of_length_pos (hlen ▸ hopen.pos)) rfl
    (fun j hj => absurd hj (Nat.not_lt_zero j)) (by rw [List.length_nil, Nat.zero_add]; exact hlen)
  have hsize : t.rowlen = (rgbaOpened .encode s).rowlen := by rw [hdone]; rfl
  refine ⟨t, ?_, ?_, hdone⟩
  · rw [execAll, exec_slBegin_rgba hok hlow hhigh]
    exact ht
  · rw [hsize, hrow]
    exact reconRow_none _ _ [] r

/-- A decode session of colour type 6 fed filter type 0 and a row. -/
theorem decodeRow (hmax : s.lineMax ≤ 2 ^ 28) {r : List Byte} (hr : r.length = 4 * s.arg.toNat) :
    ∃ t, execAll (.slBegin 6 8 .decode :: (0 :: r).map .slPush) s = .next t ∧ rowBytes t t.rowlen = r ∧
      t.lineMax = s.lineMax ∧ t.slWidth = s.arg ∧ t.status.dir = .decode ∧ t.status.bpp = .rgba := by
  have hopen := rowOpen_rgbaOpened hok hlow hhigh hmax .decode
  have hlen : r.length = (rgbaOpened .decode s).rowlen := hr.trans (Nat.mul_comm 4 _)
  obtain ⟨t, ht, hrow, hdone⟩ := hopen.pushDecodeRow rfl rfl .none hlen
  have hsize : t.rowlen = (rgbaOpened .decode s).rowlen := by rw [hdone]; rfl
  refine ⟨t, ?_, ?_, ?_⟩
  · rw [execAll, exec_slBegin_rgba hok hlow hhigh]
    exact ht
  · rw [hsize, hrow, reconRow_none]
    rfl
  · rw [hdone]
    exact ⟨rfl, rfl, rfl, rfl⟩

end

/-- Settles O58, by `encodeRow` and then `decodeRow`, whose filter type is 0. -/
theorem decodeAfterEncodeIsTheIdentity : Obligations.DecodeAfterEncodeIsTheIdentity := by
  intro s r hok hmax hlow hhigh hr
  obtain ⟨t, ht, hrow, hdone⟩ := encodeRow hok hlow hhigh hmax hr
  have hdir : t.status.dir = .encode := by rw [hdone]; rfl
  have hwidth : t.slWidth = s.arg := by rw [hdone]; rfl
  have harg : t.arg = s.arg := by rw [hdone]; rfl
  have hlineMax : t.lineMax = s.lineMax := by rw [hdone]; rfl
  have hsize : t.rowlen = 4 * t.slWidth.toNat := by
    rw [State.rowlen, show t.status.bpp = .rgba by rw [hdone]; rfl]
    exact Nat.mul_comm _ 4
  have hcap : t.rowlen ≤ t.capacity := by
    rw [hsize, State.capacity, hwidth, hlineMax]
    omega
  obtain ⟨u, hu, hrow', hlineMax', hwidth', hdir', hbpp'⟩ := decodeRow (s := t) (by rw [hdone]; exact hok)
    (by rwa [harg]) (by rwa [harg, hlineMax]) (by rwa [hlineMax]) (by rwa [harg])
  have hcap' : u.rowlen ≤ u.capacity := by
    rw [State.rowlen, State.capacity, hbpp', hwidth', hlineMax', harg, hlineMax]
    exact (Nat.mul_comm _ 4).trans_le (Nat.mul_le_mul_left 4 hhigh)
  refine ⟨t, u, ht, ?_, ?_, hu, ?_, ?_⟩
  · rw [outLen_encode hdir, hwidth]
  · rw [outBytes_encode hcap hdir hsize, hrow]
  · rw [outLen_decode hdir', hwidth', harg]
  · rw [outBytes_rgba hcap' hdir' hbpp', hrow']

end Sys2Proof

/-! # The unspecified bytes of the line buffers are not observed (spec/10_state.md R32; U1) -/

namespace Sys2Proof

open Sys2Proof.Machine

/-- From `s` an operation gives the same next state with other unspecified bytes, these apart. -/
def Reseeds (f : State → Result) (s : State) (k : Nat) : Prop :=
  ∃ t m, f s = .next t ∧ f { s with resets := k } = .next { t with resets := m }

/-! ### Outputs that read the same -/

theorem outBytes_congr {s u : State} {i n : Nat} (h : ∀ k, k < n → u.outByte (i + k) = s.outByte (i + k)) :
    u.outBytes i n = s.outBytes i n := by
  induction n generalizing i with
  | zero => rfl
  | succ n ih =>
    have hfirst : u.outByte i = s.outByte i := h 0 (Nat.succ_pos n)
    have hrest : u.outBytes (i + 1) n = s.outBytes (i + 1) n := ih fun k hk => by
      rw [Nat.add_right_comm, Nat.add_assoc]
      exact h (k + 1) (Nat.succ_lt_succ hk)
    rw [State.outBytes, State.outBytes, hfirst, hrest]

section
variable {s : State} (h : Inv s) (k : Nat)
include h

/-! ### What is read has been written -/

/-- The neighbours of the byte to come are samples before it, and bytes of the row above (R33). -/
theorem Inv.reconstructed_reseed (hact : s.status.slActive = true) {i : Nat} (ht : pushTarget s = some i) (v : Byte) :
    ({ s with resets := k } : State).reconstructed i v = s.reconstructed i v := by
  have hbpp : 0 < s.status.bpp.toNat := Nat.pos_of_mul_pos_left (h.rowlen_pos (h.bpp_ne_unset hact))
  have hprev : s.status.hasRow = true → ∀ j, j ≤ i →
      ({ s with resets := k } : State).lineByte .prev j = s.lineByte .prev j := fun hrow j hj =>
    withUnread_lineByte_of_written s.arg s.responses k (h.prev_written hrow j (hj.trans_lt (h.target_lt ht)))
  have hcur : ∀ j, j < i → ({ s with resets := k } : State).lineByte .cur j = s.lineByte .cur j :=
    fun j hj => withUnread_lineByte_of_written s.arg s.responses k (h.cur_before_target ht hj)
  have hA : ({ s with resets := k } : State).neighbourA i = s.neighbourA i :=
    ite_congr rfl (fun hle => hcur _ (Nat.sub_lt (hbpp.trans_le hle) hbpp)) fun _ => rfl
  have hB : ({ s with resets := k } : State).neighbourB i = s.neighbourB i :=
    ite_congr rfl (fun hrow => hprev hrow i le_rfl) fun _ => rfl
  have hC : ({ s with resets := k } : State).neighbourC i = s.neighbourC i :=
    ite_congr rfl (fun hrow => hprev hrow.1 _ (Nat.sub_le _ _)) fun _ => rfl
  rw [State.reconstructed, hA, hB, hC, State.reconstructed]

theorem Inv.pushedByte_reseed (hact : s.status.slActive = true) {i : Nat} (ht : pushTarget s = some i) (v : Byte) :
    pushedByte { s with resets := k } i v = pushedByte s i v := by
  rw [pushedByte_eq_reconstructed (s := { s with resets := k }) h.encode_ftype, h.reconstructed_reseed k hact ht,
    pushedByte_eq_reconstructed h.encode_ftype]

/-- A byte of the output row comes from the completed row, which has been written. -/
theorem Inv.outByte_reseed (hrow : s.status.hasRow = true) {j : Nat} (hj : j < s.outLen) :
    ({ s with resets := k } : State).outByte j = s.outByte j := by
  have hbyte : ∀ i, i < s.rowlen → ({ s with resets := k } : State).rowByte i = s.rowByte i := fun i hi =>
    ite_congr rfl (fun _ => congrArg some
      (withUnread_lineByte_of_written s.arg s.responses k (h.prev_written hrow i hi))) fun _ => rfl
  cases hdir : s.status.dir with
  | decode =>
    rw [outLen_decode hdir] at hj
    simp only [State.outByte, hdir]
    exact ite_congr rfl (fun hk => hbyte _ (State.pixelByte_lt_rowlen (by omega) hk)) fun _ => rfl
  | encode =>
    rw [outLen_encode hdir] at hj
    simp only [State.outByte, hdir]
    exact ite_congr rfl (fun _ => rfl) fun hne => hbyte _ (by rw [h.rowlen_encode hdir]; omega)

/-! ### Pushes -/

theorem Inv.pushByte_reseed (hact : s.status.slActive = true) (opc v : Byte) :
    Machine.pushByte opc v { s with resets := k } = pushMap (fun t => { t with resets := k }) (Machine.pushByte opc v s) := by
  have hcommute : Machine.pushByte opc v { s with resets := k } =
      pushMap (withUnread s.arg s.responses k) (Machine.pushByte opc v s) :=
    pushByte_withUnread s.arg s.responses k (fun i ht => h.pushedByte_reseed k hact ht v) fun i j ht _ hj =>
      withUnread_lineByte_of_written s.arg s.responses k (h.cur_before_target ht hj)
  rw [hcommute]
  cases hpush : Machine.pushByte opc v s with
  | taken t =>
    rw [taken_fields hpush]
    rfl
  | failed t =>
    obtain ⟨-, -, -, rfl⟩ := failed_fields hpush
    rfl
  | stopped f => rfl

theorem Inv.pushBytes_reseed (hact : s.status.slActive = true) (opc : Byte) (bs : List Byte) :
    Reseeds (fun s => (Machine.pushBytes opc bs s).result) s k := by
  induction bs generalizing s with
  | nil => exact ⟨s, k, rfl, rfl⟩
  | cons v vs ih =>
    have hreseed := h.pushByte_reseed k hact opc v
    obtain ⟨u, htaken | hfailed, hu⟩ := h.pushByte hact opc v
    · rw [htaken] at hreseed
      obtain ⟨t, m, ht, ht'⟩ := ih hu (by rw [taken_fields htaken]; exact hact)
      exact ⟨t, m, (congrArg Push.result (pushBytes_cons_of_taken htaken vs)).trans ht,
        (congrArg Push.result (pushBytes_cons_of_taken hreseed vs)).trans ht'⟩
    · rw [hfailed] at hreseed
      exact ⟨u, k, congrArg Push.result (pushBytes_cons_of_failed hfailed vs),
        congrArg Push.result (pushBytes_cons_of_failed hreseed vs)⟩

/-! ### Commands -/

section
variable (hok : s.status.err = false)
include hok

theorem Inv.slPush_reseed (v : Byte) : Reseeds (Machine.exec (.slPush v)) s k := by
  have hok' : ({ s with resets := k } : State).status.err = false := hok
  cases hact : s.status.slActive with
  | false =>
    refine ⟨Machine.raise 0x21 .state 0 0 0 s, k, ?_, ?_⟩
    · rw [exec_slPush_of_ok hok, if_pos hact]
    · rw [exec_slPush_of_ok hok', if_pos hact]
      rfl
  | true =>
    obtain ⟨t, m, ht, ht'⟩ := h.pushBytes_reseed k hact 0x21 [v]
    simp only [pushBytes_singleton] at ht ht'
    exact ⟨t, m, (exec_slPush_result hok hact v).trans ht, (exec_slPush_result hok' hact v).trans ht'⟩

theorem Inv.slPushw_reseed (n : Nat) : Reseeds (Machine.exec (.slPushw n)) s k := by
  have hok' : ({ s with resets := k } : State).status.err = false := hok
  cases hact : s.status.slActive with
  | false =>
    refine ⟨Machine.raise 0x22 .state 0 0 0 s, k, ?_, ?_⟩
    · rw [exec_slPushw_of_ok hok, if_pos hact]
    · rw [exec_slPushw_of_ok hok', if_pos hact]
      rfl
  | true =>
    obtain ⟨t, m, ht, ht'⟩ := h.pushBytes_reseed k hact 0x22 (bytesOf n s.arg)
    exact ⟨t, m, (exec_slPushw_result hok hact n).trans ht,
      (exec_slPushw_result hok' hact n).trans ht'⟩

theorem Inv.slReadw_reseed (n : Nat) : Reseeds (Machine.exec (.slReadw n)) s k := by
  have hok' : ({ s with resets := k } : State).status.err = false := hok
  by_cases hbad : s.status.hasRow = false ∨ s.outLen < s.arg.toNat + n
  · exact ⟨_, k, exec_slReadw_index hok hbad, exec_slReadw_index hok' hbad⟩
  · obtain ⟨hnorow, hnoend⟩ := not_or.1 hbad
    have hrow : s.status.hasRow = true := Bool.eq_true_of_not_eq_false hnorow
    have hend : s.arg.toNat + n ≤ s.outLen := Nat.not_lt.1 hnoend
    obtain ⟨bs, hbs, -⟩ := State.exists_outBytes (s := s) (i := s.arg.toNat) (n := n) fun j hj =>
      h.exists_outByte (by omega)
    have hsame : ({ s with resets := k } : State).outBytes s.arg.toNat n = s.outBytes s.arg.toNat n :=
      outBytes_congr fun j hj => h.outByte_reseed k hrow (by omega)
    exact ⟨_, k, exec_slReadw_of_outBytes hok hrow hend hbs,
      exec_slReadw_of_outBytes hok' hrow hend (hsame.trans hbs)⟩

omit h in
theorem slEnd_reseed : Reseeds (Machine.exec .slEnd) s k := by
  have hok' : ({ s with resets := k } : State).status.err = false := hok
  cases hact : s.status.slActive with
  | false => exact ⟨_, k, exec_slEnd_without_session hok hact, exec_slEnd_without_session hok' hact⟩
  | true =>
    by_cases hcol : s.slCol = 0
    · exact ⟨_, k, exec_slEnd_between_rows hok hact hcol, exec_slEnd_between_rows hok' hact hcol⟩
    · exact ⟨_, k, exec_slEnd_inside_row hok hact hcol, exec_slEnd_inside_row hok' hact hcol⟩

omit h in
theorem slBegin_reseed (ct bd : Byte) (dir : Direction) : Reseeds (Machine.exec (.slBegin ct bd dir)) s k := by
  have hok' : ({ s with resets := k } : State).status.err = false := hok
  cases hheader : headerAccepted ct bd dir with
  | false => exact ⟨_, k, exec_slBegin_refused hok hheader, exec_slBegin_refused hok' hheader⟩
  | true =>
    by_cases hwidth : s.arg = 0 ∨ s.lineMax < s.arg.toNat
    · exact ⟨_, k, exec_slBegin_width hok hheader hwidth, exec_slBegin_width hok' hheader hwidth⟩
    · rw [word_eq_zero_iff] at hwidth
      have hlow : 1 ≤ s.arg.toNat := by omega
      have hhigh : s.arg.toNat ≤ s.lineMax := by omega
      exact ⟨_, k, exec_slBegin_opens hok hheader hlow hhigh,
        exec_slBegin_opens hok' hheader hlow hhigh⟩

omit h in
theorem unfilt_reseed (v : Byte) : Reseeds (Machine.exec (.unfilt v)) s k := by
  have hok' : ({ s with resets := k } : State).status.err = false := hok
  cases hv : FilterType.ofByte v with
  | none =>
    have hhigh := (FilterType.ofByte_eq_none v).1 hv
    exact ⟨_, k, exec_unfilt_unknown hok hhigh, exec_unfilt_unknown hok' hhigh⟩
  | some ft =>
    obtain rfl := FilterType.toByte_of_ofByte hv
    exact ⟨_, k, exec_unfilt_toByte hok ft, exec_unfilt_toByte hok' ft⟩

theorem Inv.exec_reseed_of_ok (i : Instr) : Reseeds (Machine.exec i) s k := by
  have hok' : ({ s with resets := k } : State).status.err = false := hok
  cases i with
  | nop => exact ⟨s, k, rfl, rfl⟩
  | clrerr => exact ⟨_, k, rfl, rfl⟩
  | sreset => exact ⟨_, k + 1, rfl, rfl⟩
  | crcInit => exact ⟨_, k, exec_crcInit_of_ok hok, exec_crcInit_of_ok hok'⟩
  | crcByte v => exact ⟨_, k, exec_crcByte_of_ok hok v, exec_crcByte_of_ok hok' v⟩
  | crcWord n => exact ⟨_, k, exec_crcWord_of_ok hok n, exec_crcWord_of_ok hok' n⟩
  | crcLoad => exact ⟨_, k, exec_crcLoad_of_ok hok, exec_crcLoad_of_ok hok'⟩
  | crcChk => exact ⟨_, k, exec_crcChk_of_ok hok, exec_crcChk_of_ok hok'⟩
  | crcTab idx => exact ⟨_, k, exec_crcTab_of_ok hok idx, exec_crcTab_of_ok hok' idx⟩
  | paeth a b c => exact ⟨_, k, exec_paeth_of_ok hok a b c, exec_paeth_of_ok hok' a b c⟩
  | unfilt v => exact unfilt_reseed k hok v
  | slBegin ct bd dir => exact slBegin_reseed k hok ct bd dir
  | slEnd => exact slEnd_reseed k hok
  | slReadw n => exact h.slReadw_reseed k hok n
  | slPush v => exact h.slPush_reseed k hok v
  | slPushw n => exact h.slPushw_reseed k hok n

end

theorem Inv.exec_reseed (i : Instr) : Reseeds (Machine.exec i) s k := by
  cases herr : s.status.err with
  | false => exact h.exec_reseed_of_ok k herr i
  | true =>
    by_cases hi : i = .nop ∨ i = .clrerr ∨ i = .sreset
    · obtain rfl | rfl | rfl := hi
      · exact ⟨s, k, rfl, rfl⟩
      · exact ⟨_, k, rfl, rfl⟩
      · exact ⟨_, k + 1, rfl, rfl⟩
    · simp only [not_or] at hi
      obtain ⟨hnop, hclrerr, hsreset⟩ := hi
      exact ⟨s, k, exec_of_err herr i hnop hclrerr hsreset,
        exec_of_err (s := { s with resets := k }) herr i hnop hclrerr hsreset⟩

/-! ### Steps -/

theorem Inv.execute_reseed (w : Word) : Reseeds (Machine.execute w) s k := by
  unfold Machine.execute
  cases decode w with
  | command i => exact h.exec_reseed k i
  | illegal y =>
    cases herr : s.status.err with
    | true => exact ⟨s, k, unlessErr_of_err herr _, unlessErr_of_err (s := { s with resets := k }) herr _⟩
    | false => exact ⟨_, k, unlessErr_of_ok herr _, unlessErr_of_ok (s := { s with resets := k }) herr _⟩

theorem Inv.busWrite_reseed (width : Nat) (off : BitVec 8) (data : Word) :
    Reseeds (Machine.busWrite width off data) s k := by
  unfold Machine.busWrite
  cases accessAccepted width off with
  | false => exact ⟨s, k, rfl, rfl⟩
  | true =>
    cases Reg.atOffset off with
    | none => exact ⟨s, k, rfl, rfl⟩
    | some r =>
      cases r with
      | cmd => exact h.execute_reseed k data
      | arg => exact ⟨s.setArg data, k, rfl, rfl⟩
      | _ => exact ⟨s, k, rfl, rfl⟩

theorem Inv.deliver_reseed (e : BusEvent) : Reseeds (Machine.deliver e) s k := by
  cases hreset : s.inReset with
  | true =>
    have hreset' : ({ s with resets := k } : State).inReset = true := hreset
    cases e with
    | read width off => exact ⟨_, k, deliver_read_of_reset hreset width off, deliver_read_of_reset hreset' width off⟩
    | write width off data =>
      exact ⟨_, k, deliver_write_of_reset hreset width off data, deliver_write_of_reset hreset' width off data⟩
    | resetLine asserted =>
      cases asserted with
      | true => exact ⟨_, k, rfl, rfl⟩
      | false => exact ⟨_, k + 1, deliver_release hreset, deliver_release hreset'⟩
  | false =>
    have hreset' : ({ s with resets := k } : State).inReset = false := hreset
    cases e with
    | read width off => exact ⟨_, k, deliver_read hreset width off, deliver_read hreset' width off⟩
    | write width off data =>
      obtain ⟨t, m, ht, ht'⟩ := h.busWrite_reseed k width off data
      refine ⟨t.respond (.writeDone (busWriteResp width off)), m, ?_, ?_⟩
      · rw [deliver_write hreset, ht, answerWrite]
      · rw [deliver_write hreset', ht', answerWrite]
        rfl
    | resetLine asserted =>
      cases asserted with
      | true => exact ⟨_, k, rfl, rfl⟩
      | false => exact ⟨_, k, deliver_release_idle hreset, deliver_release_idle hreset'⟩

/-- The step with other unspecified bytes. -/
theorem Inv.step_reseed : Reseeds Machine.step s k := by
  cases hinbox : s.inbox with
  | nil => exact ⟨s, k, step_idle hinbox, step_idle (s := { s with resets := k }) hinbox⟩
  | cons e rest =>
    obtain ⟨t, m, ht, ht'⟩ := (h.of_registers (t := s.setInbox rest) rfl).deliver_reseed k e
    exact ⟨t, m, (step_event hinbox).trans ht, (step_event (s := { s with resets := k }) hinbox).trans ht'⟩

end

/-- Settles O56, by `Inv.step_reseed`: what a step reads of the line buffers has been written. -/
theorem unspecifiedLineBytesCannotBeObserved : Obligations.UnspecifiedLineBytesCannotBeObserved :=
  fun _ k h => h.step_reseed k

end Sys2Proof
